-- ==== Sys2Proof/Word.lean ====
section
/-!
DEFINITION. The value types the whole model shares: 16-bit words, 8-bit characters, the version of a group, a date.
-/

namespace Sys2Proof

/-- One of the words A, B, C, D of a group, 16 unsigned bits (R5, R51, R75). -/
abbrev Word := BitVec 16

/-- An 8-bit character code (R5, R11). -/
abbrev Byte := BitVec 8

/-- The version of a group, B[11]: 0 is A and 1 is B (R91). -/
inductive Version where
  | a
  | b
  deriving DecidableEq, Repr

/-- The integer triple MJD_TO_DATE returns (R232); not every triple is a calendar date. -/
structure Date where
  year  : Int
  month : Int
  day   : Int
  deriving DecidableEq, Repr, Inhabited

end Sys2Proof
end

