-- ==== Sys2Proof/Config.lean ====
section
/-!
DEFINITION. The named parameters of R6 and the values the spec leaves free.
`Params` holds the parameters a command's effect depends on, as plain data; `Presentation` holds those the host
applies to what the block outputs, which no step reads.
-/

namespace Sys2Proof

/-- PI_LATCH_GROUPS, a subset of the supported group types 0, 1, 2, 4 (R6, R122): one membership bit for each. -/
structure PiLatchGroups where
  g0 : Bool
  g1 : Bool
  g2 : Bool
  g4 : Bool
  deriving DecidableEq, Repr

/-- NAME_TRIM (R6, R154). -/
inductive NameTrim where
  | trailing
  | both
  deriving DecidableEq, Repr

/-- RT_COUNT_WINDOW (R6, R195): PREFIX counts the expected slots only, ALL counts the sixteen. -/
inductive RtCountWindow where
  | prefixWindow
  | allSlots
  deriving DecidableEq, Repr

/-- Which function MJD_TO_DATE is (R6): the formula of R233, or any function under the law of R232, whose results
outside the law's range are the free values `Config.openDate` (log 2). -/
inductive MjdRule where
  | rdsFormula
  | anyLawful
  deriving DecidableEq, Repr

/-- The parameters a command's effect depends on (R6); fixed for a model instance (R45). -/
structure Params where
  piLatch       : PiLatchGroups
  nameTrim      : NameTrim
  rtCountWindow : RtCountWindow
  mjdRule       : MjdRule
  deriving DecidableEq, Repr

/-- The defaults R6 tabulates. -/
def Params.default : Params where
  piLatch       := { g0 := true, g1 := true, g2 := true, g4 := true }
  nameTrim      := .trailing
  rtCountWindow := .prefixWindow
  mjdRule       := .rdsFormula

/-- What an admissible MJD_TO_DATE answers outside the range of the law of R232 (U2): a free value, nothing
constrains it (log 2). -/
opaque Config.openDate : BitVec 17 → Date

/-- The date string of a triple outside the ranges of R237 ("unspecified"): a free value (log 12). -/
opaque Config.openDateString : Date → List Char

/-- HEX_CASE (R6, R126). -/
inductive HexCase where
  | upper
  | lower
  deriving DecidableEq, Repr

/-- The parameters the host applies to the block's outputs (R6, R11): no step reads them and they are no part of
State. OFFSET_FORMAT takes the sign bit (true = negative) and the half-hours. -/
structure Presentation where
  ptyNames     : BitVec 5 → String
  charset      : Byte → Char
  offsetFormat : Bool → BitVec 5 → List Char
  hexCase      : HexCase

end Sys2Proof
end

