-- ==== Sys2Proof/Syntax.lean ====
section
/-!
DEFINITION. The instructions: one constructor for each mnemonic of spec/opcode_table.json, with the fields that R93 to
R96 give its row, and the words that carry an instruction (R90, R101, R102).
The bits R93 to R96 mark as ignored are no operands: they "may hold any value and change nothing" (R100, log 8).
-/

namespace Sys2Proof

/-- The instruction set. The first four are the commands of the CMD rows (R101); the others are the GROUP rows, which
apply under DECODE (R92). -/
inductive Instr where
  /-- DECODE a, b, c, d (R120). -/
  | decode (a b c d : Word)
  /-- RESET (R260). -/
  | reset
  /-- QUERY (R261). -/
  | query
  /-- CMDNOP, the reserved command code (R262). -/
  | cmdnop
  /-- GRP0A (R151, R93). -/
  | grp0a (pi : Word) (tp : Bool) (pty : BitVec 5) (ta ms : Bool) (seg : BitVec 2) (af1 af2 ch0 ch1 : Byte)
  /-- GRP0B (R152, R93). -/
  | grp0b (pi : Word) (tp : Bool) (pty : BitVec 5) (ta ms : Bool) (seg : BitVec 2) (ch0 ch1 : Byte)
  /-- GRP1A (R180, R94). -/
  | grp1a (pi pin slc : Word)
  /-- GRP1B (R181, R94). -/
  | grp1b (pi : Word)
  /-- GRP2A (R191, R95). -/
  | grp2a (pi : Word) (ab : Bool) (slot : BitVec 4) (t0 t1 t2 t3 : Byte)
  /-- GRP2B (R192, R95). -/
  | grp2b (pi : Word) (ab : Bool) (slot : BitVec 4) (t0 t1 : Byte)
  /-- GRP4A (R231, R96 to R98). `ofsSign` is the bit itself: false = 0 = positive. -/
  | grp4a (pi : Word) (mjd : BitVec 17) (hour : BitVec 5) (minute : BitVec 6) (ofsSign : Bool) (ofsHalf : BitVec 5)
  /-- GRP4B (R234, R96). -/
  | grp4b (pi : Word)
  /-- GRPNOP (R124): the group type, which is 3 or 5..15; the table has one row for each. -/
  | grpnop (gt : BitVec 4)
  deriving DecidableEq, Repr

/-- The four words of a group, delivered together (R90). -/
structure GroupWords where
  a : Word
  b : Word
  c : Word
  d : Word
  deriving DecidableEq, Repr

/-- A command as the command port takes it: the CMD field, then the operand words, which every command but DECODE
ignores (R50, R101). -/
structure CommandWord where
  cmd   : BitVec 2
  group : GroupWords
  deriving DecidableEq, Repr

/-- The words of an instruction, in one of the two row formats of the opcode table: a CMD row matches the CMD field, a
GROUP row matches word B of a group under DECODE (30_encoding.md, opening; R101). -/
inductive Encoding where
  | command (w : CommandWord)
  | group (g : GroupWords)
  deriving DecidableEq, Repr

/-- The rows of the dispatch map (R92). -/
inductive GroupRow where
  | grp0a
  | grp0b
  | grp1a
  | grp1b
  | grp2a
  | grp2b
  | grp4a
  | grp4b
  | grpnop
  deriving DecidableEq, Repr

/-- A GROUP row of the opcode table: word B matches when `b &&& mask = pattern`. -/
structure TableRow where
  pattern : Word
  mask    : Word
  row     : GroupRow
  deriving DecidableEq, Repr

end Sys2Proof
end

