-- ==== Sys2Proof/Machine/State.lean ====
section
/-!
DEFINITION. The state of the machine: the StationInfo record (R31 to R43), the records the ports carry (R127, R261), the
command stream (R50, R303), and the reset state (R47, R300).
-/

namespace Sys2Proof.Machine

/-! ### The records the ports carry -/

/-- One alternative frequency: its code and its frequency in units of 100 kHz (R153). -/
structure AfEntry where
  code  : Byte
  f100k : Nat
  deriving DecidableEq, Repr

/-- The clock record CLK (R43), which is also the ClockRec of a result (R231). -/
structure ClockRec where
  mjd     : BitVec 17
  year    : Int
  month   : Int
  day     : Int
  hour    : BitVec 5
  minute  : BitVec 6
  ofsSign : Bool
  ofsHalf : BitVec 5
  deriving DecidableEq, Repr

/-- The per-call result record DecodedFields (R127). -/
structure DecodedFields where
  pi    : Option Word
  pty   : Option (BitVec 5)
  tp    : Option Bool
  ta    : Option Bool
  ms    : Option Bool
  af    : Option (List AfEntry)
  ps    : Option (List Byte)
  pin   : Option Word
  slc   : Option Word
  rt    : Option (List Byte)
  clock : Option ClockRec
  deriving DecidableEq, Repr

/-- EMPTY, every field NONE (R128). -/
def DecodedFields.empty : DecodedFields where
  pi := none
  pty := none
  tp := none
  ta := none
  ms := none
  af := none
  ps := none
  pin := none
  slc := none
  rt := none
  clock := none

/-- Q.raw, the buffers, bitmaps and text bookkeeping as they are (R261). -/
structure RawView where
  psBuf  : Vector Byte 8
  psSeen : Vector Bool 4
  rtBuf  : Vector Byte 64
  rtSeen : Vector Bool 16
  rtAb   : Option Bool
  rtVer  : Option Version
  deriving DecidableEq, Repr

/-- The StationInfo snapshot Q of QUERY (R261). -/
structure Snapshot where
  pi    : Word
  pty   : BitVec 5
  tp    : Bool
  ta    : Bool
  ms    : Bool
  ps    : Option (List Byte)
  rt    : Option (List Byte)
  clock : Option ClockRec
  raw   : RawView
  deriving DecidableEq, Repr

/-- What a command puts on a port: a DECODE its result on the result port (R52), a QUERY its snapshot on the snapshot
port (R53). -/
inductive Output where
  | result (r : DecodedFields)
  | snapshot (q : Snapshot)
  deriving DecidableEq, Repr

/-- What the host puts on the command port: one command, issued after the one before it completed (R50), or a pair that
overlaps, the second issued before the first completed (R291). -/
inductive HostRequest where
  | issue (w : CommandWord)
  | overlap (first second : CommandWord)
  deriving DecidableEq, Repr

/-! ### Why a step may stop -/

/-- The faults. There is none: no command raises, faults or blocks (R129, R280), so the type has no constructor and no
meaning can raise one (log 15). -/
inductive Fault where
  deriving DecidableEq, Repr

/-- The refusals. -/
inductive Refusal where
  /-- Raised by an arm of `exec` whose instruction has no meaning yet, by its mnemonic. No arm raises it: every
  instruction is modelled. Safe. -/
  | notModelled (mnemonic : String)
  /-- Raised by `step` for an overlapping pair of commands: "an overlapping pair is refused, not assigned a value"
  (R291, U1). Safe: nothing can be proved of what follows (log 5). -/
  | overlappingCommands
  deriving DecidableEq, Repr

/-! ### The state -/

/-- StationInfo: the whole architectural state of the block (R31 to R43; "the block has no other state", R44).
`tp`, `ta`, `ms`, the bitmaps, `rtAb`, `clkValid` are bits, true for 1. -/
structure StationInfo where
  pi       : Word
  pty      : BitVec 5
  tp       : Bool
  ta       : Bool
  ms       : Bool
  psBuf    : Vector Byte 8
  psSeen   : Vector Bool 4
  rtBuf    : Vector Byte 64
  rtSeen   : Vector Bool 16
  rtAb     : Option Bool
  rtVer    : Option Version
  clkValid : Bool
  clk      : ClockRec
  deriving DecidableEq, Repr

/-- The clock record with every field 0 (R43, R47). -/
def ClockRec.zero : ClockRec where
  mjd := 0
  year := 0
  month := 0
  day := 0
  hour := 0
  minute := 0
  ofsSign := false
  ofsHalf := 0

/-- The reset state S0 (R47). -/
def StationInfo.reset : StationInfo where
  pi := 0x0000
  pty := 0
  tp := false
  ta := false
  ms := false
  psBuf := Vector.replicate 8 0x20#8
  psSeen := Vector.replicate 4 false
  rtBuf := Vector.replicate 64 0x20#8
  rtSeen := Vector.replicate 16 false
  rtAb := none
  rtVer := none
  clkValid := false
  clk := .zero

/-- The machine: the block's registers, the parameters of this instance, which no step writes (R45, log 1), and the
serialized command stream (R77, R303): how many commands have completed, the host's requests not yet taken, the next
one first (log 3), and what the ports have carried, the oldest first (log 6). -/
structure State where
  params  : Params
  info    : StationInfo
  pos     : Nat
  pending : List HostRequest
  outputs : List Output
  deriving DecidableEq, Repr

/-- The machine right after construction: S0 (R300), the position 0 (R303), the parameters at the defaults of R6, no
request pending and nothing output yet. -/
def State.reset : State where
  params := .default
  info := .reset
  pos := 0
  pending := []
  outputs := []

end Sys2Proof.Machine
end

