-- ==== Sys2Proof/Machine/Operands.lean ====
section
/-!
DEFINITION. The operand forms: character substitution (R123), the alternative-frequency code (R153), and the list
operations of the report pipelines (R125, R197).
-/

namespace Sys2Proof.Machine

/-- Subst: a code below 0x20 is stored as 0x20 (R123). -/
def subst (x : Byte) : Byte := if x < 0x20#8 then 0x20#8 else x

/-- AfDecode: codes 1..204 give one entry of 874 + x units of 100 kHz, the others none (R153, C1, C2). -/
def afDecode (x : Byte) : List AfEntry :=
  if 1 ≤ x.toNat ∧ x.toNat ≤ 204 then [{ code := x, f100k := 874 + x.toNat }] else []

/-- Remove every 0x20 at the start. -/
def trimLeading (l : List Byte) : List Byte := l.dropWhile (· == 0x20#8)

/-- TrimTrailing: remove every 0x20 at the end (R125). -/
def trimTrailing (l : List Byte) : List Byte := (trimLeading l.reverse).reverse

/-- TrimBoth: remove every 0x20 at the start and at the end (R125). -/
def trimBoth (l : List Byte) : List Byte := trimTrailing (trimLeading l)

/-- CutCR: the codes before the first 0x0D (R197). -/
def cutCR (l : List Byte) : List Byte := l.takeWhile (· != 0x0D#8)

end Sys2Proof.Machine
end

