-- ==== Sys2Proof/Machine/Flags.lean ====
section
/-!
DEFINITION. The flag and bitmap computations: the A/B toggle and the clear it causes (R190, R193), completeness of the
name (R154), readiness of the text (R194, R195), and the two reports (R154, R196).
-/

namespace Sys2Proof.Machine

/-! ### The A/B flag -/

/-- The flag of this group 2 differs from the recorded one; on the first call, RT_AB = NONE, it does not (R190). -/
def abDiffers (recorded : Option Bool) (ab : Bool) : Bool :=
  match recorded with
  | none => false
  | some x => x != ab

/-- RtClear: every position 0x20, every slot flag 0 (R193). -/
def rtClear (i : StationInfo) : StationInfo :=
  { i with rtBuf := Vector.replicate 64 0x20#8, rtSeen := Vector.replicate 16 false }

/-- AbToggle: clear on a change of the flag, then record the flag (R190). -/
def abToggle (ab : Bool) (i : StationInfo) : StationInfo :=
  { (bif abDiffers i.rtAb ab then rtClear i else i) with rtAb := some ab }

/-! ### The name -/

/-- PsComplete: all four segments are present (R154). -/
def psComplete (i : StationInfo) : Bool := i.psSeen.toList.all id

/-- The trim NAME_TRIM selects (R154, R125). -/
def nameTrimOf (t : NameTrim) (l : List Byte) : List Byte :=
  match t with
  | .trailing => trimTrailing l
  | .both => trimBoth l

/-- NameReport (R154). -/
def nameReport (p : Params) (i : StationInfo) : Option (List Byte) :=
  if psComplete i then some (nameTrimOf p.nameTrim i.psBuf.toList) else none

/-! ### The text -/

/-- RtExpected (R194). -/
def rtExpected : Version → Nat
  | .a => 16
  | .b => 8

/-- RtLen (R194). -/
def rtLen : Version → Nat
  | .a => 64
  | .b => 32

/-- The slot flags that count: the first RtExpected under PREFIX, all under ALL (R195). -/
def countedFlags (p : Params) (i : StationInfo) (v : Version) : List Bool :=
  match p.rtCountWindow with
  | .prefixWindow => i.rtSeen.toList.take (rtExpected v)
  | .allSlots => i.rtSeen.toList

/-- RtCount: the number of 1 bits among them (R195). -/
def rtCount (p : Params) (i : StationInfo) (v : Version) : Nat := (countedFlags p i v).count true

/-- RtReady: at least half the expected slots (R195). -/
def rtReady (p : Params) (i : StationInfo) (v : Version) : Bool := rtExpected v ≤ 2 * rtCount p i v

/-- The text the report pipeline assembles: the first RtLen positions, cut at a carriage return, trimmed (R196). -/
def rtAssembled (i : StationInfo) (v : Version) : List Byte :=
  trimBoth (cutCR (i.rtBuf.toList.take (rtLen v)))

/-- TextReport: the assembled text when it is ready and not empty (R196). -/
def textReport (p : Params) (i : StationInfo) (v : Version) : Option (List Byte) :=
  if rtReady p i v then
    if rtAssembled i v = [] then none else some (rtAssembled i v)
  else none

end Sys2Proof.Machine
end

