-- ==== Sys2Proof/WellFormed.lean ====
section
/-!
DEFINITION. Which terms of `Instr` are instructions of the table.
Every operand's type already has the width the encoding gives it (R5, R93 to R96) and no encoding is illegal (R100), so
the only check is that GRPNOP carries an unsupported group type (R124).
-/

namespace Sys2Proof

/-- The group types a handler exists for: 0, 1, 2 and 4 (R92, R121). -/
def supportedType (gt : BitVec 4) : Bool :=
  gt == 0#4 || gt == 1#4 || gt == 2#4 || gt == 4#4

/-- `i` stands for a row of the opcode table. -/
def Instr.wellFormed : Instr → Bool
  | .decode _ _ _ _ => true
  | .reset => true
  | .query => true
  | .cmdnop => true
  | .grp0a _ _ _ _ _ _ _ _ _ _ => true
  | .grp0b _ _ _ _ _ _ _ _ => true
  | .grp1a _ _ _ => true
  | .grp1b _ => true
  | .grp2a _ _ _ _ _ _ _ => true
  | .grp2b _ _ _ _ _ => true
  | .grp4a _ _ _ _ _ _ => true
  | .grp4b _ => true
  | .grpnop gt => !supportedType gt

end Sys2Proof
end

