-- ==== Sys2Proof/Decode.lean ====
section
/-!
DEFINITION. Decoding and encoding: the bit fields of a group's words (R7, R8, R91, R93 to R99), the dispatch map and the
opcode table (R92), the decoder, total because no encoding is illegal (R100), and the encoder written from the same
layouts.
-/

namespace Sys2Proof

/-! ### Bytes of a word (R8) -/

/-- The high byte `w[15:8]` (R8). -/
def hi8 (w : Word) : Byte := w.extractLsb' 8 8

/-- The low byte `w[7:0]` (R8). -/
def lo8 (w : Word) : Byte := w.extractLsb' 0 8

/-! ### Fields of word B -/

/-- GT = B[15:12] (R91). -/
def gtOf (b : Word) : BitVec 4 := b.extractLsb' 12 4

/-- VER = B[11], 0 = A and 1 = B (R91). -/
def verOf (b : Word) : Version := if b.getLsbD 11 then .b else .a

/-- TP = B[10] (R93). -/
def tpOf (b : Word) : Bool := b.getLsbD 10

/-- PTY = B[9:5] (R93). -/
def ptyOf (b : Word) : BitVec 5 := b.extractLsb' 5 5

/-- TA = B[4] (R93). -/
def taOf (b : Word) : Bool := b.getLsbD 4

/-- MS = B[3] (R93). -/
def msOf (b : Word) : Bool := b.getLsbD 3

/-- SEG = B[1:0] (R93). -/
def segOf (b : Word) : BitVec 2 := b.extractLsb' 0 2

/-- AB = B[4] of a group 2 (R95). -/
def abOf (b : Word) : Bool := b.getLsbD 4

/-- SLOT = B[3:0], in both versions (R95, C3). -/
def slotOf (b : Word) : BitVec 4 := b.extractLsb' 0 4

/-! ### The clock fields of group 4A (R97, R98, R230) -/

/-- MJD = B[1:0] :: C[15:1] (R97). -/
def mjdOf (b c : Word) : BitVec 17 := b.extractLsb' 0 2 ++ c.extractLsb' 1 15

/-- HOUR = C[0] :: D[15:12] (R98). -/
def hourOf (c d : Word) : BitVec 5 := c.extractLsb' 0 1 ++ d.extractLsb' 12 4

/-- MINUTE = D[11:6] (R98). -/
def minuteOf (d : Word) : BitVec 6 := d.extractLsb' 6 6

/-- OFS_SIGN = D[5], false for 0 = positive (R98). -/
def ofsSignOf (d : Word) : Bool := d.getLsbD 5

/-- OFS_HALF = D[4:0] (R98). -/
def ofsHalfOf (d : Word) : BitVec 5 := d.extractLsb' 0 5

/-! ### The dispatch map and the opcode table -/

/-- The dispatch map: the group row that B[15:11] selects (R92). -/
def groupRow (b : Word) : GroupRow :=
  match (gtOf b).toNat, verOf b with
  | 0, .a => .grp0a
  | 0, .b => .grp0b
  | 1, .a => .grp1a
  | 1, .b => .grp1b
  | 2, .a => .grp2a
  | 2, .b => .grp2b
  | 4, .a => .grp4a
  | 4, .b => .grp4b
  | _, _ => .grpnop

/-- The GROUP rows of spec/opcode_table.json with a handler, in its order. -/
def handlerRows : List TableRow :=
  [⟨0x0000, 0xF800, .grp0a⟩, ⟨0x0800, 0xF800, .grp0b⟩, ⟨0x1000, 0xF800, .grp1a⟩, ⟨0x1800, 0xF800, .grp1b⟩,
   ⟨0x2000, 0xF800, .grp2a⟩, ⟨0x2800, 0xF800, .grp2b⟩, ⟨0x4000, 0xF800, .grp4a⟩, ⟨0x4800, 0xF800, .grp4b⟩]

/-- The twelve GRPNOP rows of spec/opcode_table.json, in its order. -/
def grpnopRows : List TableRow :=
  [⟨0x3000, 0xF000, .grpnop⟩, ⟨0x5000, 0xF000, .grpnop⟩, ⟨0x6000, 0xF000, .grpnop⟩, ⟨0x7000, 0xF000, .grpnop⟩,
   ⟨0x8000, 0xF000, .grpnop⟩, ⟨0x9000, 0xF000, .grpnop⟩, ⟨0xA000, 0xF000, .grpnop⟩, ⟨0xB000, 0xF000, .grpnop⟩,
   ⟨0xC000, 0xF000, .grpnop⟩, ⟨0xD000, 0xF000, .grpnop⟩, ⟨0xE000, 0xF000, .grpnop⟩, ⟨0xF000, 0xF000, .grpnop⟩]

/-- Every GROUP row of spec/opcode_table.json. -/
def groupRows : List TableRow := handlerRows ++ grpnopRows

/-- A GROUP row matches word B as `(B & mask) == match` (30_encoding.md, opening). -/
def TableRow.matchesWord (r : TableRow) (b : Word) : Bool := b &&& r.mask == r.pattern

/-! ### The decoder -/

/-- The group instruction of four words: the row by B[15:11] only, its fields by R93 to R98. -/
def decodeGroup (g : GroupWords) : Instr :=
  match groupRow g.b with
  | .grp0a => .grp0a g.a (tpOf g.b) (ptyOf g.b) (taOf g.b) (msOf g.b) (segOf g.b) (hi8 g.c) (lo8 g.c) (hi8 g.d) (lo8 g.d)
  | .grp0b => .grp0b g.a (tpOf g.b) (ptyOf g.b) (taOf g.b) (msOf g.b) (segOf g.b) (hi8 g.d) (lo8 g.d)
  | .grp1a => .grp1a g.a g.c g.d
  | .grp1b => .grp1b g.a
  | .grp2a => .grp2a g.a (abOf g.b) (slotOf g.b) (hi8 g.c) (lo8 g.c) (hi8 g.d) (lo8 g.d)
  | .grp2b => .grp2b g.a (abOf g.b) (slotOf g.b) (hi8 g.d) (lo8 g.d)
  | .grp4a => .grp4a g.a (mjdOf g.b g.c) (hourOf g.c g.d) (minuteOf g.d) (ofsSignOf g.d) (ofsHalfOf g.d)
  | .grp4b => .grp4b g.a
  | .grpnop => .grpnop (gtOf g.b)

/-- The command a command word selects by its CMD field (R101). -/
def decodeCommand (w : CommandWord) : Instr :=
  match w.cmd.toNat with
  | 0 => .decode w.group.a w.group.b w.group.c w.group.d
  | 1 => .reset
  | 2 => .query
  | _ => .cmdnop

/-- The instruction of an encoding. Total: no encoding is illegal (R100, R101). -/
def decode : Encoding → Instr
  | .command w => decodeCommand w
  | .group g => decodeGroup g

/-! ### The encoder -/

/-- Four words of zeros: the operand words of a command without operands, which are ignored (R101). -/
def GroupWords.zero : GroupWords := ⟨0, 0, 0, 0⟩

/-- Word B of a group 0 with B[2], which is ignored, zero (R93). -/
def encodeB0 (ver tp : BitVec 1) (pty : BitVec 5) (ta ms : BitVec 1) (seg : BitVec 2) : Word :=
  0#4 ++ ver ++ tp ++ pty ++ ta ++ ms ++ 0#1 ++ seg

/-- Word B of a group 2 with B[10:5], which is ignored, zero (R95). -/
def encodeB2 (ver ab : BitVec 1) (slot : BitVec 4) : Word :=
  2#4 ++ ver ++ 0#6 ++ ab ++ slot

/-- Word B of a group 4A with B[10:2], which is ignored, zero (R96). -/
def encodeB4 (mjd : BitVec 17) : Word := 4#4 ++ 0#1 ++ 0#9 ++ mjd.extractLsb' 15 2

/-- Word C of a group 4A: MJD[14:0] :: HOUR[4] (R96). -/
def encodeC4 (mjd : BitVec 17) (hour : BitVec 5) : Word := mjd.extractLsb' 0 15 ++ hour.extractLsb' 4 1

/-- Word D of a group 4A: HOUR[3:0] :: MINUTE :: OFS_SIGN :: OFS_HALF (R96). -/
def encodeD4 (hour : BitVec 5) (minute : BitVec 6) (ofsSign : BitVec 1) (ofsHalf : BitVec 5) : Word :=
  hour.extractLsb' 0 4 ++ minute ++ ofsSign ++ ofsHalf

/-- The words of a well-formed instruction; ignored bits are zero (R93 to R98, R101). -/
def encode : Instr → Encoding
  | .decode a b c d => .command ⟨0, ⟨a, b, c, d⟩⟩
  | .reset => .command ⟨1, .zero⟩
  | .query => .command ⟨2, .zero⟩
  | .cmdnop => .command ⟨3, .zero⟩
  | .grp0a pi tp pty ta ms seg af1 af2 ch0 ch1 =>
    .group ⟨pi, encodeB0 0 (BitVec.ofBool tp) pty (BitVec.ofBool ta) (BitVec.ofBool ms) seg, af1 ++ af2, ch0 ++ ch1⟩
  | .grp0b pi tp pty ta ms seg ch0 ch1 =>
    .group ⟨pi, encodeB0 1 (BitVec.ofBool tp) pty (BitVec.ofBool ta) (BitVec.ofBool ms) seg, 0, ch0 ++ ch1⟩
  | .grp1a pi pin slc => .group ⟨pi, 0x1000, pin, slc⟩
  | .grp1b pi => .group ⟨pi, 0x1800, 0, 0⟩
  | .grp2a pi ab slot t0 t1 t2 t3 => .group ⟨pi, encodeB2 0 (BitVec.ofBool ab) slot, t0 ++ t1, t2 ++ t3⟩
  | .grp2b pi ab slot t0 t1 => .group ⟨pi, encodeB2 1 (BitVec.ofBool ab) slot, 0, t0 ++ t1⟩
  | .grp4a pi mjd hour minute ofsSign ofsHalf =>
    .group ⟨pi, encodeB4 mjd, encodeC4 mjd hour, encodeD4 hour minute (BitVec.ofBool ofsSign) ofsHalf⟩
  | .grp4b pi => .group ⟨pi, 0x4800, 0, 0⟩
  | .grpnop gt => .group ⟨0, gt ++ 0#12, 0, 0⟩

/-! ### Mnemonics, and the words of the opcode table's rows -/

/-- The mnemonic of spec/opcode_table.json that a dispatch-map row has. -/
def GroupRow.mnemonic : GroupRow → String
  | .grp0a => "GRP0A"
  | .grp0b => "GRP0B"
  | .grp1a => "GRP1A"
  | .grp1b => "GRP1B"
  | .grp2a => "GRP2A"
  | .grp2b => "GRP2B"
  | .grp4a => "GRP4A"
  | .grp4b => "GRP4B"
  | .grpnop => "GRPNOP"

/-- The mnemonics of the rows of spec/opcode_table.json that an encoding matches, read off the table's match and mask. -/
def Encoding.tableMnemonics : Encoding → List String
  | .command w => [(["DECODE", "RESET", "QUERY", "CMDNOP"].getD w.cmd.toNat "")]
  | .group g => (groupRows.filter (·.matchesWord g.b)).map (·.row.mnemonic)

/-- The mnemonic of an instruction. -/
def Instr.mnemonic : Instr → String
  | .decode _ _ _ _ => "DECODE"
  | .reset => "RESET"
  | .query => "QUERY"
  | .cmdnop => "CMDNOP"
  | .grp0a _ _ _ _ _ _ _ _ _ _ => "GRP0A"
  | .grp0b _ _ _ _ _ _ _ _ => "GRP0B"
  | .grp1a _ _ _ => "GRP1A"
  | .grp1b _ => "GRP1B"
  | .grp2a _ _ _ _ _ _ _ => "GRP2A"
  | .grp2b _ _ _ _ _ => "GRP2B"
  | .grp4a _ _ _ _ _ _ => "GRP4A"
  | .grp4b _ => "GRP4B"
  | .grpnop _ => "GRPNOP"

/-- The encoding of an opcode-table row's bits: a CMD row has 2 bits (one byte when counted in whole bytes), a GROUP row
the 16 bits of word B; every bit above is zero, so the other words are zero (log 7). -/
def tableEncoding (nbits w : Nat) : Encoding :=
  if nbits ≤ 8 then .command ⟨BitVec.ofNat 2 w, .zero⟩ else .group ⟨0, BitVec.ofNat 16 w, 0, 0⟩

/-- The bits fit the row format: a CMD field has two bits, word B sixteen. -/
def tableBitsFit (nbits w : Nat) : Bool :=
  if nbits ≤ 8 then w < 4 else w < 65536

/-- The instruction the decoder reads from an opcode-table row's bits. -/
def decodeTableWord (nbits w : Nat) : Option Instr :=
  if tableBitsFit nbits w then some (decode (tableEncoding nbits w)) else none

end Sys2Proof
end

