-- ==== Sys2Proof/Machine/Ops.lean ====
section
/-!
DEFINITION. The named operations on the state: buffer and bitmap writes (R10, R72, R73), the PI latch (R122), completing
a command with or without an output (R52, R53), taking the next request of the command stream and counting a completed
command (R50, R303).
There is no operation that takes an exception and none that returns from one, because the block has no trap entry and no
trap return (R280, R284).
-/

namespace Sys2Proof.Machine

/-! ### Buffers -/

/-- `S.BUF[i] <- v`, the MemWrite of R10: one whole element (R75). -/
def writeAt {α : Type} {n : Nat} (buf : Vector α n) (i : Fin n) (v : α) : Vector α n :=
  buf.set i.val v i.isLt

/-- Position 2·seg + k of PS_BUF, k = 0 or 1 (R72); at most 7 (R74). -/
def psIndex (seg : BitVec 2) (k : Fin 2) : Fin 8 :=
  ⟨2 * seg.toNat + k.val, by have := seg.isLt; have := k.isLt; omega⟩

/-- Position 4·slot + k of RT_BUF, k = 0..3, version A (R73); at most 63 (R74). -/
def rtIndexA (slot : BitVec 4) (k : Fin 4) : Fin 64 :=
  ⟨4 * slot.toNat + k.val, by have := slot.isLt; have := k.isLt; omega⟩

/-- Position 2·slot + k of RT_BUF, k = 0 or 1, version B (R73); at most 31 (R74). -/
def rtIndexB (slot : BitVec 4) (k : Fin 2) : Fin 64 :=
  ⟨2 * slot.toNat + k.val, by have := slot.isLt; have := k.isLt; omega⟩

/-- The bit of PS_SEEN for a segment (R37). -/
def segIndex (seg : BitVec 2) : Fin 4 := ⟨seg.toNat, seg.isLt⟩

/-- The bit of RT_SEEN for a slot (R39). -/
def slotIndex (slot : BitVec 4) : Fin 16 := ⟨slot.toNat, slot.isLt⟩

/-! ### The PI latch -/

/-- `if gt ∈ PI_LATCH_GROUPS then S.PI <- a` (R122); `on` is the membership of the group type. -/
def latchPi (on : Bool) (a : Word) (i : StationInfo) : StationInfo :=
  { i with pi := if on then a else i.pi }

/-! ### Completing a command -/

/-- A command completes with these registers and no output (R52: RESET produces no DecodedFields). -/
def State.complete (s : State) (i : StationInfo) : Host.Outcome State Fault Refusal :=
  .next { s with info := i }

/-- A command completes with these registers and one record on its port (R52, R53). -/
def State.completeWith (s : State) (i : StationInfo) (o : Output) : Host.Outcome State Fault Refusal :=
  .next { s with info := i, outputs := s.outputs ++ [o] }

/-! ### The command stream -/

/-- What the command port offers: nothing, an overlapping pair, or one command and the state with it taken. -/
inductive Fetched where
  | idle
  | overlapping
  | command (w : CommandWord) (s : State)
  deriving DecidableEq, Repr

/-- Take the host's next request (R50). -/
def State.fetch (s : State) : Fetched :=
  match s.pending with
  | [] => .idle
  | .overlap _ _ :: _ => .overlapping
  | .issue w :: rest => .command w { s with pending := rest }

/-- The position advances "by exactly 1 per completed command" (R303). -/
def countCompleted (o : Host.Outcome State Fault Refusal) : Host.Outcome State Fault Refusal :=
  match o with
  | .next s => .next { s with pos := s.pos + 1 }
  | .fault r => .fault r
  | .refused r => .refused r

/-- The command word that carries an encoding: a CMD row is one; a GROUP row applies only under DECODE, CMD = 00. -/
def commandOf : Encoding → CommandWord
  | .command w => w
  | .group g => ⟨0, g⟩

/-- The host's next request is this command. -/
def State.issueFirst (s : State) (w : CommandWord) : State :=
  { s with pending := .issue w :: s.pending }

end Sys2Proof.Machine
end

