-- ==== Sys2Proof/Machine/Control.lean ====
section
/-!
DEFINITION. The control commands RESET, QUERY and CMDNOP (R260 to R263).
-/

namespace Sys2Proof.Machine

/-- RESET (R260): `S <- S0`. The parameters stay (R45), and so does the command stream, which is the host's. -/
def execReset (s : State) : Host.Outcome State Fault Refusal :=
  s.complete .reset

/-- Q.raw (R261). -/
def rawView (i : StationInfo) : RawView where
  psBuf := i.psBuf
  psSeen := i.psSeen
  rtBuf := i.rtBuf
  rtSeen := i.rtSeen
  rtAb := i.rtAb
  rtVer := i.rtVer

/-- Q.rt: the text report of the version of the most recent group 2 (R261, R41). -/
def queryText (p : Params) (i : StationInfo) : Option (List Byte) :=
  match i.rtVer with
  | none => none
  | some v => textReport p i v

/-- The StationInfo snapshot (R261). -/
def snapshotOf (p : Params) (i : StationInfo) : Snapshot where
  pi := i.pi
  pty := i.pty
  tp := i.tp
  ta := i.ta
  ms := i.ms
  ps := nameReport p i
  rt := queryText p i
  clock := if i.clkValid then some i.clk else none
  raw := rawView i

/-- QUERY (R261): output the snapshot; no register is written (R263). -/
def execQuery (s : State) : Host.Outcome State Fault Refusal :=
  s.completeWith s.info (.snapshot (snapshotOf s.params s.info))

/-- CMDNOP (R262): no state change and no output. -/
def execCmdnop (s : State) : Host.Outcome State Fault Refusal :=
  s.complete s.info

end Sys2Proof.Machine
end

