-- ==== Sys2Proof/Machine/Group0.lean ====
section
/-!
DEFINITION. Group 0: basic tuning and station name (R150 to R158).
-/

namespace Sys2Proof.Machine

/-- The registers after the part of group 0 both versions share: PI, PTY, the flags, the two characters of the segment
and its PS_SEEN bit (R150). -/
def group0Common (p : Params) (pi : Word) (tp : Bool) (pty : BitVec 5) (ta ms : Bool) (seg : BitVec 2) (ch0 ch1 : Byte)
    (i : StationInfo) : StationInfo :=
  { latchPi p.piLatch.g0 pi i with
    pty := pty
    tp := tp
    ta := ta
    ms := ms
    psBuf := writeAt (writeAt i.psBuf (psIndex seg 0) (subst ch0)) (psIndex seg 1) (subst ch1)
    psSeen := writeAt i.psSeen (segIndex seg) true }

/-- The result fields both versions set (R150), with the name reported from the registers after the write (R81). -/
def group0Result (p : Params) (pi : Word) (tp : Bool) (pty : BitVec 5) (ta ms : Bool) (after : StationInfo) :
    DecodedFields :=
  { DecodedFields.empty with
    pi := some pi
    pty := some pty
    tp := some tp
    ta := some ta
    ms := some ms
    ps := nameReport p after }

/-- GRP0A (R151): the common part, and the list of alternative frequencies. -/
def execGrp0a (pi : Word) (tp : Bool) (pty : BitVec 5) (ta ms : Bool) (seg : BitVec 2) (af1 af2 ch0 ch1 : Byte)
    (s : State) : Host.Outcome State Fault Refusal :=
  let i := group0Common s.params pi tp pty ta ms seg ch0 ch1 s.info
  s.completeWith i
    (.result { group0Result s.params pi tp pty ta ms i with af := some (afDecode af1 ++ afDecode af2) })

/-- GRP0B (R152): the common part; R.af stays NONE. -/
def execGrp0b (pi : Word) (tp : Bool) (pty : BitVec 5) (ta ms : Bool) (seg : BitVec 2) (ch0 ch1 : Byte)
    (s : State) : Host.Outcome State Fault Refusal :=
  let i := group0Common s.params pi tp pty ta ms seg ch0 ch1 s.info
  s.completeWith i (.result (group0Result s.params pi tp pty ta ms i))

end Sys2Proof.Machine
end

