-- ==== Sys2Proof/Machine/Group1.lean ====
section
/-!
DEFINITION. Group 1: program item number and slow labeling, a pass-through (R180, R181).
-/

namespace Sys2Proof.Machine

/-- GRP1A (R180): PIN and SLC are reported raw, and not stored. -/
def execGrp1a (pi pin slc : Word) (s : State) : Host.Outcome State Fault Refusal :=
  s.completeWith (latchPi s.params.piLatch.g1 pi s.info)
    (.result { DecodedFields.empty with pi := some pi, pin := some pin, slc := some slc })

/-- GRP1B (R181): PIN and SLC are omitted, not zero. -/
def execGrp1b (pi : Word) (s : State) : Host.Outcome State Fault Refusal :=
  s.completeWith (latchPi s.params.piLatch.g1 pi s.info) (.result { DecodedFields.empty with pi := some pi })

end Sys2Proof.Machine
end

