-- ==== Sys2Proof/Machine/Group2.lean ====
section
/-!
DEFINITION. Group 2: the running-text buffer with its toggle-driven clear (R190 to R201).
-/

namespace Sys2Proof.Machine

/-- The four characters of a version A slot (R73, R191). -/
def writeSlotA (slot : BitVec 4) (t0 t1 t2 t3 : Byte) (buf : Vector Byte 64) : Vector Byte 64 :=
  writeAt (writeAt (writeAt (writeAt buf
    (rtIndexA slot 0) (subst t0))
    (rtIndexA slot 1) (subst t1))
    (rtIndexA slot 2) (subst t2))
    (rtIndexA slot 3) (subst t3)

/-- The two characters of a version B slot (R73, R192). -/
def writeSlotB (slot : BitVec 4) (t0 t1 : Byte) (buf : Vector Byte 64) : Vector Byte 64 :=
  writeAt (writeAt buf
    (rtIndexB slot 0) (subst t0))
    (rtIndexB slot 1) (subst t1)

/-- The registers after a group 2A: the toggle check and clear come before the write (R81, R191). -/
def group2aInfo (p : Params) (pi : Word) (ab : Bool) (slot : BitVec 4) (t0 t1 t2 t3 : Byte) (i : StationInfo) :
    StationInfo :=
  let j := abToggle ab (latchPi p.piLatch.g2 pi i)
  { j with
    rtBuf := writeSlotA slot t0 t1 t2 t3 j.rtBuf
    rtSeen := writeAt j.rtSeen (slotIndex slot) true
    rtVer := some .a }

/-- The registers after a group 2B (R81, R192). -/
def group2bInfo (p : Params) (pi : Word) (ab : Bool) (slot : BitVec 4) (t0 t1 : Byte) (i : StationInfo) : StationInfo :=
  let j := abToggle ab (latchPi p.piLatch.g2 pi i)
  { j with
    rtBuf := writeSlotB slot t0 t1 j.rtBuf
    rtSeen := writeAt j.rtSeen (slotIndex slot) true
    rtVer := some .b }

/-- GRP2A (R191): the text is reported from the registers after the write; no pi is reported (R127). -/
def execGrp2a (pi : Word) (ab : Bool) (slot : BitVec 4) (t0 t1 t2 t3 : Byte) (s : State) :
    Host.Outcome State Fault Refusal :=
  let i := group2aInfo s.params pi ab slot t0 t1 t2 t3 s.info
  s.completeWith i (.result { DecodedFields.empty with rt := textReport s.params i .a })

/-- GRP2B (R192). -/
def execGrp2b (pi : Word) (ab : Bool) (slot : BitVec 4) (t0 t1 : Byte) (s : State) :
    Host.Outcome State Fault Refusal :=
  let i := group2bInfo s.params pi ab slot t0 t1 s.info
  s.completeWith i (.result { DecodedFields.empty with rt := textReport s.params i .b })

end Sys2Proof.Machine
end

