-- ==== Sys2Proof/Machine/Calendar.lean ====
section
/-!
DEFINITION. MJD_TO_DATE (R232, R233): the default formula in integers and in exact rational arithmetic, the law's range,
and the function a parameter value selects.
-/

namespace Sys2Proof.Machine

/-- Y' of the default formula (R233). -/
def mjdYear (mjd : Int) : Int := Int.tdiv (20 * mjd - 301564) 7305

/-- T = trunc(Y' * 365.25) (R233). -/
def mjdYearDays (mjd : Int) : Int := Int.tdiv (1461 * mjdYear mjd) 4

/-- M' of the default formula (R233). -/
def mjdMonth (mjd : Int) : Int := Int.tdiv (10000 * (mjd - mjdYearDays mjd) - 149561000) 306001

/-- U = trunc(M' * 30.6001) (R233). -/
def mjdMonthDays (mjd : Int) : Int := Int.tdiv (306001 * mjdMonth mjd) 10000

/-- K: January and February count as months 14 and 15 of the year before (R233). -/
def mjdCarry (m : Int) : Int := if m = 14 ∨ m = 15 then 1 else 0

/-- The default MJD_TO_DATE, in integers, `Int.tdiv` truncating toward zero (R233). -/
def rdsDate (mjd : Int) : Date where
  year := 1900 + mjdYear mjd + mjdCarry (mjdMonth mjd)
  month := mjdMonth mjd - 1 - 12 * mjdCarry (mjdMonth mjd)
  day := mjd - 14956 - mjdYearDays mjd - mjdMonthDays mjd

/-- `trunc` of R233: a rational truncated toward zero. -/
def truncRat (q : Rat) : Int := Int.tdiv q.num q.den

/-- The default MJD_TO_DATE in its first form, in exact rational arithmetic (R233). -/
def rdsDateRat (mjd : Int) : Date :=
  let y := truncRat ((mjd - 15078.2) / 365.25)
  let m := truncRat ((mjd - 14956.1 - truncRat (y * 365.25)) / 30.6001)
  let d := mjd - 14956 - truncRat (y * 365.25) - truncRat (m * 30.6001)
  let k := if m = 14 ∨ m = 15 then 1 else 0
  { year := 1900 + y + k, month := m - 1 - 12 * k, day := d }

/-- The range of the law of R232, 1900-03-01 to 2100-02-28. -/
def mjdLawful (mjd : BitVec 17) : Bool := 15079 ≤ mjd.toNat && mjd.toNat ≤ 88127

/-- MJD_TO_DATE: the default formula, or, for any admissible function, the formula's value in the law's range, where the
law leaves no choice, and a free value outside it (R232, log 2). -/
def mjdToDate (r : MjdRule) (mjd : BitVec 17) : Date :=
  match r with
  | .rdsFormula => rdsDate mjd.toNat
  | .anyLawful => if mjdLawful mjd then rdsDate mjd.toNat else Config.openDate mjd

end Sys2Proof.Machine
end

