-- ==== Sys2Proof/Machine/Group4.lean ====
section
/-!
DEFINITION. Group 4: the clock and date parser (R230 to R241).
-/

namespace Sys2Proof.Machine

/-- The clock record a group 4A carries, its date by MJD_TO_DATE, nothing range-checked (R231, R236). -/
def clockOf (p : Params) (mjd : BitVec 17) (hour : BitVec 5) (minute : BitVec 6) (ofsSign : Bool) (ofsHalf : BitVec 5) :
    ClockRec where
  mjd := mjd
  year := (mjdToDate p.mjdRule mjd).year
  month := (mjdToDate p.mjdRule mjd).month
  day := (mjdToDate p.mjdRule mjd).day
  hour := hour
  minute := minute
  ofsSign := ofsSign
  ofsHalf := ofsHalf

/-- GRP4A (R231): the clock is updated and reported only when MJD > 0 (R235). -/
def execGrp4a (pi : Word) (mjd : BitVec 17) (hour : BitVec 5) (minute : BitVec 6) (ofsSign : Bool) (ofsHalf : BitVec 5)
    (s : State) : Host.Outcome State Fault Refusal :=
  let i := latchPi s.params.piLatch.g4 pi s.info
  let c := clockOf s.params mjd hour minute ofsSign ofsHalf
  if 0 < mjd.toNat then
    s.completeWith { i with clkValid := true, clk := c }
      (.result { DecodedFields.empty with pi := some pi, clock := some c })
  else
    s.completeWith i (.result { DecodedFields.empty with pi := some pi })

/-- GRP4B (R234): no clock field is read or written. -/
def execGrp4b (pi : Word) (s : State) : Host.Outcome State Fault Refusal :=
  s.completeWith (latchPi s.params.piLatch.g4 pi s.info) (.result { DecodedFields.empty with pi := some pi })

end Sys2Proof.Machine
end

