-- ==== Sys2Proof/Machine/Dispatcher.lean ====
section
/-!
DEFINITION. DECODE, the group dispatcher, and the no-op of the unsupported group types (R120 to R124).
-/

namespace Sys2Proof.Machine

/-- GRPNOP (R124): EMPTY is returned; no register is read or written, PI is not latched. The group type, like every other
operand, is ignored. -/
def execGrpnop (_gt : BitVec 4) (s : State) : Host.Outcome State Fault Refusal :=
  s.completeWith s.info (.result .empty)

/-- DECODE (R120): B[15:11] selects the handler, by the dispatch map (R92), and the handler's result is output. -/
def execDecode (a b c d : Word) (s : State) : Host.Outcome State Fault Refusal :=
  match groupRow b with
  | .grp0a => execGrp0a a (tpOf b) (ptyOf b) (taOf b) (msOf b) (segOf b) (hi8 c) (lo8 c) (hi8 d) (lo8 d) s
  | .grp0b => execGrp0b a (tpOf b) (ptyOf b) (taOf b) (msOf b) (segOf b) (hi8 d) (lo8 d) s
  | .grp1a => execGrp1a a c d s
  | .grp1b => execGrp1b a s
  | .grp2a => execGrp2a a (abOf b) (slotOf b) (hi8 c) (lo8 c) (hi8 d) (lo8 d) s
  | .grp2b => execGrp2b a (abOf b) (slotOf b) (hi8 d) (lo8 d) s
  | .grp4a => execGrp4a a (mjdOf b c) (hourOf c d) (minuteOf d) (ofsSignOf d) (ofsHalfOf d) s
  | .grp4b => execGrp4b a s
  | .grpnop => execGrpnop (gtOf b) s

end Sys2Proof.Machine
end

