-- ==== Sys2Proof/Machine/Dispatch.lean ====
section
/-! DEFINITION. One arm for each constructor of Instr. -/

namespace Sys2Proof.Machine

def exec (i : Instr) (s : State) : Host.Outcome State Fault Refusal :=
  match i with
  | .decode a b c d => Sys2Proof.Machine.execDecode a b c d s
  | .reset => Sys2Proof.Machine.execReset s
  | .query => Sys2Proof.Machine.execQuery s
  | .cmdnop => Sys2Proof.Machine.execCmdnop s
  | .grp0a pi tp pty ta ms seg af1 af2 ch0 ch1 => Sys2Proof.Machine.execGrp0a pi tp pty ta ms seg af1 af2 ch0 ch1 s
  | .grp0b pi tp pty ta ms seg ch0 ch1 => Sys2Proof.Machine.execGrp0b pi tp pty ta ms seg ch0 ch1 s
  | .grp1a pi pin slc => Sys2Proof.Machine.execGrp1a pi pin slc s
  | .grp1b pi => Sys2Proof.Machine.execGrp1b pi s
  | .grp2a pi ab slot t0 t1 t2 t3 => Sys2Proof.Machine.execGrp2a pi ab slot t0 t1 t2 t3 s
  | .grp2b pi ab slot t0 t1 => Sys2Proof.Machine.execGrp2b pi ab slot t0 t1 s
  | .grp4a pi mjd hour minute ofsSign ofsHalf => Sys2Proof.Machine.execGrp4a pi mjd hour minute ofsSign ofsHalf s
  | .grp4b pi => Sys2Proof.Machine.execGrp4b pi s
  | .grpnop gt => Sys2Proof.Machine.execGrpnop gt s

end Sys2Proof.Machine
end

