-- ==== Sys2Proof/Machine/Step.lean ====
section
/-!
DEFINITION. One step: take the host's next command, decode it, execute it, count it (R50, R76, R303).
-/

namespace Sys2Proof.Machine

/-- One transaction. With no request pending the block is idle and nothing changes (R288, log 4); an overlapping pair is
refused (R291, log 5). -/
def step (s : State) : Host.Outcome State Fault Refusal :=
  match s.fetch with
  | .idle => .next s
  | .overlapping => .refused .overlappingCommands
  | .command w t => countCompleted (exec (decodeCommand w) t)

/-- The state in which the next command the step takes is the one an opcode-table row's bits stand for: a CMD row is a
command; a GROUP row is the word B of a DECODE (log 3, log 7). -/
def State.withFetchWord (s : State) (nbits w : Nat) : State :=
  s.issueFirst (commandOf (tableEncoding nbits w))

end Sys2Proof.Machine
end

