-- ==== Sys2Proof/Machine/Present.lean ====
section
/-!
DEFINITION. Presentation of results: hexadecimal digits (R126, R182), frequencies (R153), program-type names (R155,
R156), characters (R11), date, time and offset strings (R237 to R240). The host applies these to the block's outputs:
none reads or writes State.
-/

namespace Sys2Proof.Machine

/-! ### Digits -/

/-- One hexadecimal digit; the letters' case is HEX_CASE (R126). -/
def hexDigit (hc : HexCase) (x : BitVec 4) : Char :=
  if x.toNat < 10 then Char.ofNat (0x30 + x.toNat)
  else
    match hc with
    | .upper => Char.ofNat (0x41 + (x.toNat - 10))
    | .lower => Char.ofNat (0x61 + (x.toNat - 10))

/-- Hex4: exactly four hexadecimal digits, most significant first (R126). -/
def hex4 (hc : HexCase) (w : Word) : List Char :=
  [hexDigit hc (w.extractLsb' 12 4), hexDigit hc (w.extractLsb' 8 4), hexDigit hc (w.extractLsb' 4 4),
   hexDigit hc (w.extractLsb' 0 4)]

/-- PI as a string (R182). -/
def presentPi (pr : Presentation) (pi : Word) : List Char := hex4 pr.hexCase pi

/-- SLC as a string (R182). -/
def presentSlc (pr : Presentation) (slc : Word) : List Char := hex4 pr.hexCase slc

/-- PIN as a string, when one is needed: it is reported as a number (R182). -/
def presentPin (pr : Presentation) (pin : Word) : List Char := hex4 pr.hexCase pin

/-- The last decimal digit of a number. -/
def decimalDigit (n : Nat) : Char := Char.ofNat (0x30 + n % 10)

/-- Two decimal digits, zero-padded. -/
def decimal2 (n : Nat) : List Char := [decimalDigit (n / 10), decimalDigit n]

/-- Four decimal digits, zero-padded. -/
def decimal4 (n : Nat) : List Char :=
  [decimalDigit (n / 1000), decimalDigit (n / 100), decimalDigit (n / 10), decimalDigit n]

/-- A number in decimal without padding. -/
def decimal (n : Nat) : List Char := Nat.toDigits 10 n

/-! ### Frequencies, names, characters -/

/-- A frequency in MHz, `f100k / 10` "." `f100k mod 10` in exact decimal (R153). -/
def presentMhz (e : AfEntry) : List Char := decimal (e.f100k / 10) ++ ['.'] ++ decimal (e.f100k % 10)

/-- The displayed characters of a reported string, by CHARSET (R11). -/
def displayText (pr : Presentation) (codes : List Byte) : List Char := codes.map pr.charset

/-- PTY_NAMES[code] (R155). -/
def ptyName (pr : Presentation) (code : BitVec 5) : String := pr.ptyNames code

/-- The default PTY_NAMES, in code order (R156; general knowledge, not in the source, log 13). -/
def defaultPtyNames : List String :=
  ["None", "News", "Current Affairs", "Information", "Sport", "Education", "Drama", "Culture"] ++
  ["Science", "Varied", "Pop Music", "Rock Music", "Easy Listening", "Light Classical", "Serious Classical",
   "Other Music"] ++
  ["Weather", "Finance", "Children's Programmes", "Social Affairs", "Religion", "Phone In", "Travel", "Leisure"] ++
  ["Jazz Music", "Country Music", "National Music", "Oldies Music", "Folk Music", "Documentary", "Alarm Test",
   "Alarm"]

/-! ### Date, time, offset -/

/-- The triples in the ranges of R237. DESIGN CHOICE (log 12): a triple in them that is no calendar date, such as
(2100, 2, 29) or (1900, 2, 31), is among them, as R237 and D32 say by ranges, while U3 and 95_test_vectors.md call the string
of such a triple unspecified. -/
def hasDateString (d : Date) : Bool :=
  0 ≤ d.year && d.year ≤ 9999 && 1 ≤ d.month && d.month ≤ 12 && 1 ≤ d.day && d.day ≤ 31

/-- YYYY-MM-DD for a triple in the ranges of R237; for any other triple the string is a free value (R237, log 12). -/
def dateString (d : Date) : List Char :=
  if hasDateString d then
    decimal4 d.year.toNat ++ ['-'] ++ decimal2 d.month.toNat ++ ['-'] ++ decimal2 d.day.toNat
  else Config.openDateString d

/-- HH:MM, the time as carried, the offset not added (R238). -/
def timeString (hour : BitVec 5) (minute : BitVec 6) : List Char :=
  decimal2 hour.toNat ++ [':'] ++ decimal2 minute.toNat

/-- The reported UTC offset in hours, (±1) × OFS_HALF / 2 (R239). -/
def offsetHours (ofsSign : Bool) (ofsHalf : BitVec 5) : Rat :=
  (if ofsSign then -1 else 1) * (ofsHalf.toNat : Rat) / 2

/-- The default OFFSET_FORMAT (R240). -/
def defaultOffsetFormat (ofsSign : Bool) (ofsHalf : BitVec 5) : List Char :=
  (if ofsSign then '-' else '+') :: decimal (ofsHalf.toNat / 2) ++ ['.'] ++ [if ofsHalf.toNat % 2 = 1 then '5' else '0']

/-- The defaults of R6: the table of R156, code n as code point n, the format of R240, upper case. -/
def defaultPresentation : Presentation where
  ptyNames := fun code => defaultPtyNames.getD code.toNat ""
  charset := fun code => Char.ofNat code.toNat
  offsetFormat := defaultOffsetFormat
  hexCase := .upper

/-- The three strings a clock record is presented as: date, time, offset (R237, R238, R240). -/
structure ClockStrings where
  date   : List Char
  time   : List Char
  offset : List Char
  deriving DecidableEq, Repr

/-- A clock record as strings. -/
def presentClock (pr : Presentation) (c : ClockRec) : ClockStrings where
  date := dateString ⟨c.year, c.month, c.day⟩
  time := timeString c.hour c.minute
  offset := pr.offsetFormat c.ofsSign c.ofsHalf

end Sys2Proof.Machine
end

