-- ==== Sys2Proof/Machine/Notation.lean ====
section
/-!
DEFINITION. The spec's own notation for commands: the pseudo-instructions and their expansion to DECODE (R103), and the
command lines of R102 with their encoding. The block itself reads no text.
-/

namespace Sys2Proof.Machine

/-! ### Pseudo-instructions (R103) -/

/-- A flag as a word, 0 or 1. -/
def flagWord (f : Bool) : Word := (BitVec.ofBool f).setWidth 16

/-- `'xy'` = `(code(x) << 8) | code(y)` (R103). -/
def charWord (x y : Byte) : Word := (x.setWidth 16 <<< 8) ||| y.setWidth 16

/-- `(tp<<10)|(pty<<5)|(ta<<4)|(ms<<3)|seg` (R103). -/
def flagsWord (seg : BitVec 2) (tp : Bool) (pty : BitVec 5) (ta ms : Bool) : Word :=
  (flagWord tp <<< 10) ||| (pty.setWidth 16 <<< 5) ||| (flagWord ta <<< 4) ||| (flagWord ms <<< 3) ||| seg.setWidth 16

/-- PS0A pi, seg, 'xy', af1, af2, tp, pty, ta, ms (R103). -/
def ps0a (pi : Word) (seg : BitVec 2) (x y af1 af2 : Byte) (tp : Bool) (pty : BitVec 5) (ta ms : Bool) : Instr :=
  .decode pi (flagsWord seg tp pty ta ms) ((af1.setWidth 16 <<< 8) ||| af2.setWidth 16) (charWord x y)

/-- PS0B pi, seg, 'xy', tp, pty, ta, ms (R103); word C repeats PI. -/
def ps0b (pi : Word) (seg : BitVec 2) (x y : Byte) (tp : Bool) (pty : BitVec 5) (ta ms : Bool) : Instr :=
  .decode pi (0x0800 ||| flagsWord seg tp pty ta ms) pi (charWord x y)

/-- RT2A pi, ab, slot, 'wx', 'yz' (R103). -/
def rt2a (pi : Word) (ab : Bool) (slot : BitVec 4) (w x y z : Byte) : Instr :=
  .decode pi (0x2000 ||| (flagWord ab <<< 4) ||| slot.setWidth 16) (charWord w x) (charWord y z)

/-- RT2B pi, ab, slot, 'xy' (R103); word C repeats PI. -/
def rt2b (pi : Word) (ab : Bool) (slot : BitVec 4) (x y : Byte) : Instr :=
  .decode pi (0x2800 ||| (flagWord ab <<< 4) ||| slot.setWidth 16) pi (charWord x y)

/-- CT4A pi, mjd, hour, minute, sign, half (R103). -/
def ct4a (pi : Word) (mjd : BitVec 17) (hour : BitVec 5) (minute : BitVec 6) (sign : Bool) (half : BitVec 5) : Instr :=
  .decode pi (0x4000 ||| (mjd >>> 15).setWidth 16)
    (((mjd &&& 0x7FFF).setWidth 16 <<< 1) ||| (hour >>> 4).setWidth 16)
    (((hour &&& 0xF).setWidth 16 <<< 12) ||| (minute.setWidth 16 <<< 6) ||| (flagWord sign <<< 5) ||| half.setWidth 16)

/-! ### Command lines (R102) -/

/-- "RESET". -/
def kwReset : List Char := ['R', 'E', 'S', 'E', 'T']

/-- "QUERY". -/
def kwQuery : List Char := ['Q', 'U', 'E', 'R', 'Y']

/-- "CMDNOP". -/
def kwCmdnop : List Char := ['C', 'M', 'D', 'N', 'O', 'P']

/-- "DECODE" and the space before its operands. -/
def kwDecode : List Char := ['D', 'E', 'C', 'O', 'D', 'E', ' ']

/-- What stands between two operands. -/
def comma : List Char := [',', ' ']

/-- The line of a command: its name and, for DECODE, its operands in four hex digits each (R102). -/
def lineOf (w : CommandWord) : List Char :=
  match w.cmd.toNat with
  | 0 => kwDecode ++ hex4 .upper w.group.a ++ comma ++ hex4 .upper w.group.b ++ comma ++ hex4 .upper w.group.c ++ comma
      ++ hex4 .upper w.group.d
  | 1 => kwReset
  | 2 => kwQuery
  | _ => kwCmdnop

/-- The value of a hexadecimal digit in either case (log 18). -/
def hexValue (c : Char) : Option (BitVec 4) :=
  if 0x30 ≤ c.toNat ∧ c.toNat ≤ 0x39 then some (BitVec.ofNat 4 (c.toNat - 0x30))
  else if 0x41 ≤ c.toNat ∧ c.toNat ≤ 0x46 then some (BitVec.ofNat 4 (c.toNat - 0x41 + 10))
  else if 0x61 ≤ c.toNat ∧ c.toNat ≤ 0x66 then some (BitVec.ofNat 4 (c.toNat - 0x61 + 10))
  else none

/-- A 16-bit operand of exactly four hexadecimal digits, and what follows it. -/
def parseWord : List Char → Option (Word × List Char)
  | c3 :: c2 :: c1 :: c0 :: rest =>
    match hexValue c3, hexValue c2, hexValue c1, hexValue c0 with
    | some x3, some x2, some x1, some x0 => some (x3 ++ x2 ++ x1 ++ x0, rest)
    | _, _, _, _ => none
  | _ => none

/-- Drop spaces at the start. -/
def dropSpaces (l : List Char) : List Char := l.dropWhile (· == ' ')

/-- A comma and the spaces after it. -/
def parseComma : List Char → Option (List Char)
  | ',' :: rest => some (dropSpaces rest)
  | _ => none

/-- The four operands of DECODE, and nothing after them. -/
def parseOperands (l : List Char) : Option GroupWords := do
  let (a, l) ← parseWord l
  let (b, l) ← parseWord (← parseComma l)
  let (c, l) ← parseWord (← parseComma l)
  let (d, l) ← parseWord (← parseComma l)
  if l = [] then some ⟨a, b, c, d⟩ else none

/-- The command on a line without its comment and the spaces around it. -/
def lineBody (l : List Char) : List Char :=
  (dropSpaces (dropSpaces (l.takeWhile (· != ';'))).reverse).reverse

/-- The command a line stands for: "its CMD value followed by its operand words"; a comment starts with ';' (R102). -/
def parseLine (l : List Char) : Option CommandWord :=
  let t := lineBody l
  if t = kwReset then some ⟨1, .zero⟩
  else if t = kwQuery then some ⟨2, .zero⟩
  else if t = kwCmdnop then some ⟨3, .zero⟩
  else if kwDecode.isPrefixOf t then (parseOperands (dropSpaces (t.drop kwDecode.length))).map (⟨0, ·⟩)
  else none

end Sys2Proof.Machine
end

