-- ==== Sys2Proof/Safety.lean ====
section
/-!
DEFINITION. The terms claims use: a serialized command stream (R291), the invariant of the registers (R46, with what
R40, R42 and R43 say of the fields that are absent), and what a record on a port may hold (R127).
-/

namespace Sys2Proof.Machine

/-! ### The host's duty -/

/-- The request is one command, not an overlapping pair. -/
def HostRequest.isSingle : HostRequest → Bool
  | .issue _ => true
  | .overlap _ _ => false

/-- The host serializes its commands: no overlapping pair is pending (R291, R304). -/
def State.serialized (s : State) : Bool := s.pending.all HostRequest.isSingle

/-! ### The invariant of the registers -/

/-- The segment a position of PS_BUF belongs to (R72). -/
def psOwner (k : Fin 8) : Fin 4 := ⟨k.val / 2, by have := k.isLt; omega⟩

/-- The slot that covers a position of RT_BUF in version A (R73). -/
def rtOwnerA (k : Fin 64) : Fin 16 := ⟨k.val / 4, by have := k.isLt; omega⟩

/-- The slot that covers a position of RT_BUF in version B, for the positions 0..31 it has (R73). -/
def rtOwnerB (k : Fin 64) (h : k.val < 32) : Fin 16 := ⟨k.val / 2, by omega⟩

/-- Some slot that is marked as received, in either version, covers the position. -/
def rtCovered (seen : Vector Bool 16) (k : Fin 64) : Bool :=
  seen[rtOwnerA k] || (if h : k.val < 32 then seen[rtOwnerB k h] else false)

/-- What holds of the registers in every reachable state (R46 and the reset and absence clauses of R36 to R43). -/
structure StationInfo.Inv (p : Params) (i : StationInfo) : Prop where
  /-- Every PS_BUF element is at least 0x20 (R46). -/
  psPrintable : ∀ k : Fin 8, 0x20#8 ≤ i.psBuf[k]
  /-- Every RT_BUF element is at least 0x20 (R46). -/
  rtPrintable : ∀ k : Fin 64, 0x20#8 ≤ i.rtBuf[k]
  /-- A name position whose segment was not received holds the fill value (R36). -/
  psUnwritten : ∀ k : Fin 8, i.psSeen[psOwner k] = false → i.psBuf[k] = 0x20#8
  /-- A text position that no received slot covers holds the fill value (R38, R193). -/
  rtUnwritten : ∀ k : Fin 64, rtCovered i.rtSeen k = false → i.rtBuf[k] = 0x20#8
  /-- RT_AB and RT_VER are both NONE or both present: every group 2 writes both (R40, R41). -/
  abAndVer : i.rtAb.isSome = i.rtVer.isSome
  /-- Before the first group 2 no slot is received (R40). -/
  noTextYet : i.rtAb = none → ∀ k : Fin 16, i.rtSeen[k] = false
  /-- While CLK_VALID is 0 the clock fields hold 0 (R43). -/
  clockAbsent : i.clkValid = false → i.clk = .zero
  /-- While CLK_VALID is 1 the clock holds a nonzero MJD and its date (R42, R231). -/
  clockPresent : i.clkValid = true → 0 < i.clk.mjd.toNat ∧
    (⟨i.clk.year, i.clk.month, i.clk.day⟩ : Date) = mjdToDate p.mjdRule i.clk.mjd

/-! ### What the ports carry -/

/-- No control character: every code is at least 0x20 (R123). -/
def printableCodes (l : List Byte) : Bool := l.all (fun x => 0x20#8 ≤ x)

/-- A reported name: 0 to 8 printable codes (R127). -/
def nameOk (l : List Byte) : Bool := l.length ≤ 8 && printableCodes l

/-- A reported text: 1 to 64 printable codes (R127). -/
def textOk (l : List Byte) : Bool := 1 ≤ l.length && l.length ≤ 64 && printableCodes l

/-- A reported alternative frequency: code 1..204 at 874 + code units of 100 kHz (R153). -/
def afEntryOk (e : AfEntry) : Bool := 1 ≤ e.code.toNat && e.code.toNat ≤ 204 && e.f100k == 874 + e.code.toNat

/-- A reported list of alternative frequencies has 0, 1 or 2 entries (R127). -/
def afOk (l : List AfEntry) : Bool := l.length ≤ 2 && l.all afEntryOk

/-- A reported clock has a nonzero MJD (R127, R231). -/
def clockOk (c : ClockRec) : Bool := 0 < c.mjd.toNat

/-- A record on a port has the form R127 gives it. -/
def Output.wellFormed : Output → Bool
  | .result r => r.ps.all nameOk && r.rt.all textOk && r.af.all afOk && r.clock.all clockOk
  | .snapshot q => q.ps.all nameOk && q.rt.all textOk && q.clock.all clockOk

/-- The invariant of the machine: that of the registers, and every record output so far has the form R127 gives it. -/
structure State.Inv (s : State) : Prop where
  info    : s.info.Inv s.params
  outputs : ∀ o ∈ s.outputs, o.wellFormed = true

/-! ### What a command leaves alone -/

/-- The command stream and the parameters after a command that put the records `o` on its ports: nothing but the list of
outputs changes, and by these only. -/
def State.Emitted (s t : State) (o : List Output) : Prop :=
  t.params = s.params ∧ t.pos = s.pos ∧ t.pending = s.pending ∧ t.outputs = s.outputs ++ o

/-- PTY and the three flags are unchanged (R32 to R35). -/
def SameTuning (i j : StationInfo) : Prop := j.pty = i.pty ∧ j.tp = i.tp ∧ j.ta = i.ta ∧ j.ms = i.ms

/-- The name buffer and its bitmap are unchanged (R36, R37). -/
def SameName (i j : StationInfo) : Prop := j.psBuf = i.psBuf ∧ j.psSeen = i.psSeen

/-- The text buffer, its bitmap, RT_AB and RT_VER are unchanged (R38 to R41). -/
def SameText (i j : StationInfo) : Prop :=
  j.rtBuf = i.rtBuf ∧ j.rtSeen = i.rtSeen ∧ j.rtAb = i.rtAb ∧ j.rtVer = i.rtVer

/-- CLK_VALID and every clock field are unchanged (R42, R43). -/
def SameClock (i j : StationInfo) : Prop := j.clkValid = i.clkValid ∧ j.clk = i.clk

end Sys2Proof.Machine

namespace Sys2Proof

/-! ### Instructions by what they run -/

/-- The instruction whose meaning a command has: for DECODE the group instruction its words hold (R120). -/
def Instr.effective : Instr → Instr
  | .decode a b c d => decodeGroup ⟨a, b, c, d⟩
  | i => i

/-- A group 0, in either version. -/
def Instr.isGroup0 : Instr → Bool
  | .grp0a .. => true
  | .grp0b .. => true
  | _ => false

/-- A group 2, in either version. -/
def Instr.isGroup2 : Instr → Bool
  | .grp2a .. => true
  | .grp2b .. => true
  | _ => false

/-- A group 4, version A, with a usable date (R235). -/
def Instr.setsClock : Instr → Bool
  | .grp4a _ mjd _ _ _ _ => 0 < mjd.toNat
  | _ => false

/-- The A/B flag of a group 2. -/
def Instr.abFlag : Instr → Option Bool
  | .grp2a _ ab .. => some ab
  | .grp2b _ ab .. => some ab
  | _ => none

/-- A group 2 whose flag differs from RT_AB: the toggle clear happens (R190, R193). -/
def Instr.flips (i : Instr) (recorded : Option Bool) : Bool :=
  match i.abFlag, recorded with
  | some ab, some x => x != ab
  | _, _ => false

/-- The bits of the four words that a row reads; the others are marked as ignored (R93 to R96, R124). -/
def readMask : GroupRow → GroupWords
  | .grp0a => ⟨0xFFFF, 0xFFFB, 0xFFFF, 0xFFFF⟩
  | .grp0b => ⟨0xFFFF, 0xFFFB, 0x0000, 0xFFFF⟩
  | .grp1a => ⟨0xFFFF, 0xF800, 0xFFFF, 0xFFFF⟩
  | .grp1b => ⟨0xFFFF, 0xF800, 0x0000, 0x0000⟩
  | .grp2a => ⟨0xFFFF, 0xF81F, 0xFFFF, 0xFFFF⟩
  | .grp2b => ⟨0xFFFF, 0xF81F, 0x0000, 0xFFFF⟩
  | .grp4a => ⟨0xFFFF, 0xF803, 0xFFFF, 0xFFFF⟩
  | .grp4b => ⟨0xFFFF, 0xF800, 0x0000, 0x0000⟩
  | .grpnop => ⟨0x0000, 0xF000, 0x0000, 0x0000⟩

/-- The words with every ignored bit cleared. -/
def GroupWords.readBits (g : GroupWords) : GroupWords :=
  let m := readMask (groupRow g.b)
  ⟨g.a &&& m.a, g.b &&& m.b, g.c &&& m.c, g.d &&& m.d⟩

/-- The DECODE command of four words. -/
def GroupWords.decodeInstr (g : GroupWords) : Instr := .decode g.a g.b g.c g.d

end Sys2Proof

namespace Sys2Proof.Machine

/-! ### What statements about runs use -/

/-- Executing the instructions of the list one after another, each answering a next state, leads from `s` to `t`. -/
def RunsTo : List Instr → State → State → Prop
  | [], s, t => s = t
  | i :: rest, s, t => ∃ u, exec i s = .next u ∧ RunsTo rest u t

/-- Word D of the last group of the list with this segment (R157). -/
def lastSegmentWord (gs : List GroupWords) (seg : BitVec 2) : Option Word :=
  ((gs.filter (fun g => segOf g.b == seg)).getLast?).map (·.d)

/-! ### The Gregorian calendar the law of R232 speaks of -/

/-- A leap year of the Gregorian calendar. -/
def leapYear (y : Int) : Bool := y % 4 == 0 && (y % 100 != 0 || y % 400 == 0)

/-- The number of days of a month. -/
def monthDays (y m : Int) : Int :=
  if m = 2 then (if leapYear y then 29 else 28)
  else if m = 4 ∨ m = 6 ∨ m = 9 ∨ m = 11 then 30
  else 31

/-- The day after. -/
def nextDay (d : Date) : Date :=
  if d.day < monthDays d.year d.month then { d with day := d.day + 1 }
  else if d.month < 12 then { year := d.year, month := d.month + 1, day := 1 }
  else { year := d.year + 1, month := 1, day := 1 }

/-- The Gregorian date lying `n` days after 1858-11-17 (R232). -/
def gregorianDate (n : Nat) : Date := nextDay^[n] { year := 1858, month := 11, day := 17 }

end Sys2Proof.Machine
end

