-- ==== Sys2Proof/Certificates/Slice0/Obligations.lean ====
section
/-!
DEFINITION. The statements for the provers, from the numbered rules of spec/.
Where a statement rests on a choice of the model, its docstring names the log entry.
-/

open Sys2Proof Sys2Proof.Machine

/-! ### Terms the statements share, spelled from the rules and not from the meanings -/

namespace Sys2Proof.Claims

/-- A character as it is stored (R123): below 0x20 it is 0x20. -/
def stored (x : Byte) : Byte := if x.toNat < 32 then 0x20#8 else x

/-- The entries one AF code gives (R153): 87.5 MHz + (x − 1)·0.1 MHz, in units of 100 kHz, for the codes 1..204. -/
def afEntries (x : Byte) : List AfEntry :=
  if 1 ≤ x.toNat ∧ x.toNat ≤ 204 then [{ code := x, f100k := 875 + (x.toNat - 1) }] else []

/-- The registers after a group 0 of either version (R150, R72), all of them. -/
def Group0Registers (s t : State) (pi : Word) (tp : Bool) (pty : BitVec 5) (ta ms : Bool) (seg : BitVec 2)
    (ch0 ch1 : Byte) : Prop :=
  t.info.pi = (if s.params.piLatch.g0 then pi else s.info.pi) ∧
  t.info.pty = pty ∧ t.info.tp = tp ∧ t.info.ta = ta ∧ t.info.ms = ms ∧
  (∀ k : Fin 8, t.info.psBuf[k] =
    if k.val = 2 * seg.toNat then stored ch0
    else if k.val = 2 * seg.toNat + 1 then stored ch1
    else s.info.psBuf[k]) ∧
  (∀ k : Fin 4, t.info.psSeen[k] = if k.val = seg.toNat then true else s.info.psSeen[k]) ∧
  SameText s.info t.info ∧ SameClock s.info t.info

/-- The two positions of PS_BUF a group 0 writes hold its characters, substituted (R123, R150). -/
def SegmentStored (t : State) (b d : Word) : Prop :=
  (∀ k : Fin 8, k.val = 2 * (segOf b).toNat → t.info.psBuf[k] = stored (hi8 d)) ∧
  (∀ k : Fin 8, k.val = 2 * (segOf b).toNat + 1 → t.info.psBuf[k] = stored (lo8 d))

/-- The positions of RT_BUF a group 2 writes hold its characters, substituted (R123, R191, R192). -/
def SlotStored (t : State) (b c d : Word) : Prop :=
  (verOf b = .a →
    (∀ k : Fin 64, k.val = 4 * (slotOf b).toNat → t.info.rtBuf[k] = stored (hi8 c)) ∧
    (∀ k : Fin 64, k.val = 4 * (slotOf b).toNat + 1 → t.info.rtBuf[k] = stored (lo8 c)) ∧
    (∀ k : Fin 64, k.val = 4 * (slotOf b).toNat + 2 → t.info.rtBuf[k] = stored (hi8 d)) ∧
    (∀ k : Fin 64, k.val = 4 * (slotOf b).toNat + 3 → t.info.rtBuf[k] = stored (lo8 d))) ∧
  (verOf b = .b →
    (∀ k : Fin 64, k.val = 2 * (slotOf b).toNat → t.info.rtBuf[k] = stored (hi8 d)) ∧
    (∀ k : Fin 64, k.val = 2 * (slotOf b).toNat + 1 → t.info.rtBuf[k] = stored (lo8 d)))

/-- A record with the recorded flag of the snapshot's raw view taken out (Q.raw, R261). -/
def withoutRawFlag : Output → Output
  | .result r => .result r
  | .snapshot q => .snapshot { q with raw := { q.raw with rtAb := none } }

/-- The group 2 signals a new message: RT_AB is recorded, and differs from the flag (R190). -/
def NewMessage (s : State) (ab : Bool) : Prop := ∃ x, s.info.rtAb = some x ∧ x ≠ ab

/-- The registers after a group 2, but for RT_BUF and RT_VER (R190, R191, R192): the slot's flag is set, the others are
kept, or cleared when a new message is signalled. -/
def Group2Registers (s t : State) (pi : Word) (ab : Bool) (slot : BitVec 4) : Prop :=
  t.info.pi = (if s.params.piLatch.g2 then pi else s.info.pi) ∧
  t.info.rtAb = some ab ∧
  (∀ k : Fin 16, k.val = slot.toNat → t.info.rtSeen[k] = true) ∧
  (∀ k : Fin 16, k.val ≠ slot.toNat → NewMessage s ab → t.info.rtSeen[k] = false) ∧
  (∀ k : Fin 16, k.val ≠ slot.toNat → ¬ NewMessage s ab → t.info.rtSeen[k] = s.info.rtSeen[k]) ∧
  SameTuning s.info t.info ∧ SameName s.info t.info ∧ SameClock s.info t.info

/-- RT_BUF outside the positions `own` of the slot just written: kept, or 0x20 when a new message is signalled (R193). -/
def OtherTextKeptOrCleared (s t : State) (ab : Bool) (own : Fin 64 → Prop) : Prop :=
  (∀ k : Fin 64, ¬ own k → NewMessage s ab → t.info.rtBuf[k] = 0x20#8) ∧
  (∀ k : Fin 64, ¬ own k → ¬ NewMessage s ab → t.info.rtBuf[k] = s.info.rtBuf[k])

/-- The result record with nothing but these fields (R127, R128). -/
def resultOf (pi : Option Word) (pin slc : Option Word) (rt : Option (List Byte)) (clock : Option ClockRec) :
    DecodedFields :=
  { pi := pi, pty := none, tp := none, ta := none, ms := none, af := none, ps := none, pin := pin, slc := slc, rt := rt,
    clock := clock }

/-- The number of slots expected (R194): the text is ready from half of them. -/
def expectedSlots : Version → Nat
  | .a => 16
  | .b => 8

/-- How many positions a report covers (R194). -/
def reportedPositions : Version → Nat
  | .a => 64
  | .b => 32

/-- The number of received slots that count (R195): under PREFIX those below the expected number, under ALL each. -/
def countedSlots (p : Params) (i : StationInfo) (v : Version) : Nat :=
  ((List.finRange 16).filter (fun k =>
    i.rtSeen[k] && (decide (p.rtCountWindow = .allSlots) || decide (k.val < expectedSlots v)))).length

/-- The codes of the report before its trim (R196): the reported positions up to the first carriage return. -/
def textBeforeTrim (i : StationInfo) (v : Version) : List Byte :=
  (i.rtBuf.toList.take (reportedPositions v)).takeWhile (fun x => x != 0x0D#8)

/-- `l` is `whole` without the spaces at its two ends (R125). -/
def TrimmedBoth (whole l : List Byte) : Prop :=
  (∃ m n, whole = List.replicate m 0x20#8 ++ l ++ List.replicate n 0x20#8) ∧
    l.head? ≠ some 0x20#8 ∧ l.getLast? ≠ some 0x20#8

/-- `l` is `whole` without the spaces at its end (R125). -/
def TrimmedTrailing (whole l : List Byte) : Prop :=
  (∃ n, whole = l ++ List.replicate n 0x20#8) ∧ l.getLast? ≠ some 0x20#8

end Sys2Proof.Claims

open Sys2Proof.Claims

/-! ### Encoding -/

/-- Every well-formed instruction is read back from its words with every operand (30_encoding.md, R90 to R99, R101). -/
def Obligations.DecodeOfEncodeIsIdentity : Prop :=
  ∀ i : Instr, i.wellFormed = true → decode (encode i) = i

/-- Encoding what was decoded gives the words back with exactly the bits cleared that R93 to R96 and R124 mark as ignored
(the encoder writes them as zero: log 8). -/
def Obligations.EncodeOfDecodeClearsIgnoredBits : Prop :=
  ∀ g : GroupWords, encode (decode (.group g)) = .group g.readBits

/-- Two groups that agree on every bit their row reads do the same in every state (R93 to R96, R100). -/
def Obligations.IgnoredBitsHaveNoEffect : Prop :=
  ∀ (g h : GroupWords) (s : State), g.readBits = h.readBits → exec g.decodeInstr s = exec h.decodeInstr s

/-- R158: B[2] of a group 0, and word C of a 0B, change nothing. -/
def Obligations.GroupZeroIgnoredBits : Prop :=
  (∀ (a b c d : Word) (s : State), gtOf b = 0#4 →
    exec (.decode a (b ^^^ 0x0004#16) c d) s = exec (.decode a b c d) s) ∧
  (∀ (a b c c' d : Word) (s : State), gtOf b = 0#4 → verOf b = .b →
    exec (.decode a b c' d) s = exec (.decode a b c d) s)

/-- No encoding is illegal: each is read as a well-formed instruction (R100). -/
def Obligations.EveryEncodingDecodesWellFormed : Prop :=
  ∀ e : Encoding, (decode e).wellFormed = true

/-- Exactly one GROUP row of the opcode table matches each value of B, and it is the row of the dispatch map
(30_encoding.md, opening). -/
def Obligations.ExactlyOneTableRowMatches : Prop :=
  ∀ b : Word, ∃ r, groupRows.filter (fun q => q.matchesWord b) = [r] ∧ r.row = groupRow b

/-- R91: GT is the four most significant bits of B, VER the bit below. -/
def Obligations.SelectorFieldsAreTopBits : Prop :=
  ∀ b : Word, (gtOf b).toNat = b.toNat / 4096 ∧ (verOf b = .b ↔ b.toNat / 2048 % 2 = 1) ∧
    (verOf b = .a ↔ b.toNat / 2048 % 2 = 0)

/-- R92: the dispatch map, on the number B[15:11]; the instruction decoded is that of the row. -/
def Obligations.DispatchMapSelectsTheRow : Prop :=
  (∀ b : Word, groupRow b =
    if b.toNat / 2048 = 0 then .grp0a
    else if b.toNat / 2048 = 1 then .grp0b
    else if b.toNat / 2048 = 2 then .grp1a
    else if b.toNat / 2048 = 3 then .grp1b
    else if b.toNat / 2048 = 4 then .grp2a
    else if b.toNat / 2048 = 5 then .grp2b
    else if b.toNat / 2048 = 8 then .grp4a
    else if b.toNat / 2048 = 9 then .grp4b
    else .grpnop) ∧
  ∀ g : GroupWords, (decodeGroup g).mnemonic = (groupRow g.b).mnemonic

/-- R101: the CMD field selects the command; the operand words are ignored but for DECODE. -/
def Obligations.CommandFieldSelectsTheCommand : Prop :=
  ∀ g : GroupWords,
    decode (.command ⟨0b00#2, g⟩) = .decode g.a g.b g.c g.d ∧
    decode (.command ⟨0b01#2, g⟩) = .reset ∧
    decode (.command ⟨0b10#2, g⟩) = .query ∧
    decode (.command ⟨0b11#2, g⟩) = .cmdnop

/-- Some words written out bit by bit from the layouts of R93 to R96 decode to the instructions they stand for. -/
def Obligations.KnownWordsDecode : Prop :=
  decode (.group ⟨0x8201#16, 0b0000010101001010#16, 0b0000000111001100#16, 0b0100010100100000#16⟩) =
    .grp0a 0x8201#16 true 10#5 false true 2#2 1#8 204#8 0x45#8 0x20#8 ∧
  decode (.group ⟨0x8201#16, 0b0000110101000001#16, 0x8201#16, 0b0100100100000001#16⟩) =
    .grp0b 0x8201#16 true 10#5 false false 1#2 0x49#8 0x01#8 ∧
  decode (.group ⟨0x8201#16, 0b0001000000000000#16, 0x1234#16, 0xABCD#16⟩) =
    .grp1a 0x8201#16 0x1234#16 0xABCD#16 ∧
  decode (.group ⟨0x8201#16, 0b0010000000010111#16, 0b0011001000110100#16, 0b0010111100110111#16⟩) =
    .grp2a 0x8201#16 true 7#4 0x32#8 0x34#8 0x2F#8 0x37#8 ∧
  decode (.group ⟨0x8201#16, 0b0100000000000001#16, 0b1101011101001000#16, 0b1100000000000010#16⟩) =
    .grp4a 0x8201#16 60324#17 12#5 0#6 false 2#5 ∧
  decode (.group ⟨0x8201#16, 0b1111100000000000#16, 0#16, 0#16⟩) = .grpnop 15#4

/-- R97, R98: the clock fields as numbers. -/
def Obligations.ClockFieldsAreAssembled : Prop :=
  ∀ b c d : Word,
    (mjdOf b c).toNat = (b.toNat % 4) * 32768 + c.toNat / 2 ∧
    (hourOf c d).toNat = (c.toNat % 2) * 16 + d.toNat / 4096 ∧
    (minuteOf d).toNat = d.toNat / 64 % 64 ∧
    (ofsSignOf d = true ↔ d.toNat / 32 % 2 = 1) ∧
    (ofsHalfOf d).toNat = d.toNat % 32

/-- Each pseudo-instruction expands to a DECODE that is read as the group it names (the expansions of R103). -/
def Obligations.PseudoInstructionsExpand : Prop :=
  (∀ pi seg x y af1 af2 tp pty ta ms,
    (ps0a pi seg x y af1 af2 tp pty ta ms).effective = .grp0a pi tp pty ta ms seg af1 af2 x y) ∧
  (∀ pi seg x y tp pty ta ms, (ps0b pi seg x y tp pty ta ms).effective = .grp0b pi tp pty ta ms seg x y) ∧
  (∀ pi ab slot w x y z, (rt2a pi ab slot w x y z).effective = .grp2a pi ab slot w x y z) ∧
  (∀ pi ab slot x y, (rt2b pi ab slot x y).effective = .grp2b pi ab slot x y) ∧
  (∀ pi mjd hour minute sign half,
    (ct4a pi mjd hour minute sign half).effective = .grp4a pi mjd hour minute sign half)

/-- The line of a command is read back as the command, with and without a comment (R102; what else the reader accepts is
log 18). -/
def Obligations.CommandLinesReadBack : Prop :=
  ∀ (w : CommandWord) (comment : List Char), (w.cmd ≠ 0#2 → w.group = .zero) →
    parseLine (lineOf w) = some w ∧ parseLine (lineOf w ++ [' ', ';'] ++ comment) = some w

/-! ### The step and the command stream -/

/-- A step runs the decoded instruction: when the next request is one command, the step is `exec` of the instruction it
decodes to, in the state with the request taken, and the position advances by 1. -/
def Obligations.StepRunsTheDecodedCommand : Prop :=
  ∀ (s : State) (w : CommandWord) (rest : List HostRequest), s.pending = .issue w :: rest →
    ∃ t, exec (decode (.command w)) { s with pending := rest } = .next t ∧ step s = .next { t with pos := s.pos + 1 }

/-- The bits of an opcode-table row, placed where the step takes its next command, run the row's instruction (how a GROUP
row's word is placed is log 7). -/
def Obligations.FetchWordRunsTheTableInstruction : Prop :=
  ∀ (s : State) (nbits w : Nat) (i : Instr), decodeTableWord nbits w = some i →
    ∃ t, exec i s = .next t ∧ step (s.withFetchWord nbits w) = .next { t with pos := s.pos + 1 }

/-- R291: an overlapping pair is refused. -/
def Obligations.OverlappingPairIsRefused : Prop :=
  ∀ (s : State) (v w : CommandWord) (rest : List HostRequest), s.pending = .overlap v w :: rest →
    step s = .refused .overlappingCommands

/-- With no request pending a step changes nothing: the model's choice for an idle block (log 4, after R288). -/
def Obligations.IdleStepChangesNothing : Prop :=
  ∀ s : State, s.pending = [] → step s = .next s

/-- The position starts at 0, a step that takes a command advances it by exactly 1 and leaves the later requests as they
are; the only other step is that of an idle block (from R303; the idle step is log 4). -/
def Obligations.PositionAdvancesByOnePerCommand : Prop :=
  State.reset.pos = 0 ∧ ∀ s t : State, step s = .next t →
    (s.pending = [] ∧ t = s) ∨ (∃ w, s.pending = .issue w :: t.pending ∧ t.pos = s.pos + 1)

/-- A serialized stream runs to its end without a fault or a refusal, one position for each command, and what was output
before stays output (R77, R129, R303). -/
def Obligations.SerializedStreamRunsToItsEnd : Prop :=
  ∀ s : State, s.serialized = true →
    ∃ (t : State) (o : List Output), Host.Core.run Sys2Proof.core s.pending.length s = Host.Outcome.next t ∧
      t.pending = [] ∧ t.pos = s.pos + s.pending.length ∧ t.outputs = s.outputs ++ o ∧ o.length ≤ s.pending.length

/-- The parameters stay fixed: no step writes them (R45; they stand in State by log 1). -/
def Obligations.ParametersNeverChange : Prop :=
  ∀ s t : State, step s = .next t → t.params = s.params

/-- R280: no instruction stops, and none changes the flow of commands: each answers a next state in every state, and
touches neither the position nor the requests that wait. -/
def Obligations.EveryInstructionCompletes : Prop :=
  ∀ (i : Instr) (s : State), ∃ t, exec i s = .next t ∧ t.pos = s.pos ∧ t.pending = s.pending ∧ t.params = s.params

/-! ### DECODE -/

/-- R120, R129: DECODE of any four words in any state runs the handler that b[15:12] and b[11] select, on the group they
hold, answers a next state, and outputs one result. -/
def Obligations.DecodeRunsItsHandler : Prop :=
  ∀ (a b c d : Word) (s : State),
    exec (.decode a b c d) s = exec (decodeGroup ⟨a, b, c, d⟩) s ∧
    (decodeGroup ⟨a, b, c, d⟩).mnemonic =
      (if b.toNat / 4096 = 0 then (if b.getLsbD 11 then "GRP0B" else "GRP0A")
       else if b.toNat / 4096 = 1 then (if b.getLsbD 11 then "GRP1B" else "GRP1A")
       else if b.toNat / 4096 = 2 then (if b.getLsbD 11 then "GRP2B" else "GRP2A")
       else if b.toNat / 4096 = 4 then (if b.getLsbD 11 then "GRP4B" else "GRP4A")
       else "GRPNOP") ∧
    ∃ t r, exec (.decode a b c d) s = .next t ∧ s.Emitted t [.result r]

/-- R124: an unsupported group type answers EMPTY and changes no register, whatever the words. -/
def Obligations.UnsupportedGroupsAreNoOps : Prop :=
  (∀ (a b c d : Word) (s : State), gtOf b ≠ 0#4 → gtOf b ≠ 1#4 → gtOf b ≠ 2#4 → gtOf b ≠ 4#4 →
    exec (.decode a b c d) s =
      .next { s with outputs := s.outputs ++ [.result (resultOf none none none none none)] }) ∧
  (∀ (gt : BitVec 4) (s : State), exec (.grpnop gt) s =
      .next { s with outputs := s.outputs ++ [.result (resultOf none none none none none)] })

/-- R122: a group of a type in PI_LATCH_GROUPS writes PI with word A, any other leaves it. -/
def Obligations.PiIsLatchedByListedGroups : Prop :=
  ∀ (a b c d : Word) (s t : State), exec (.decode a b c d) s = .next t →
    t.info.pi =
      if (b.toNat / 4096 = 0 ∧ s.params.piLatch.g0 = true) ∨ (b.toNat / 4096 = 1 ∧ s.params.piLatch.g1 = true) ∨
        (b.toNat / 4096 = 2 ∧ s.params.piLatch.g2 = true) ∨ (b.toNat / 4096 = 4 ∧ s.params.piLatch.g4 = true)
      then a else s.info.pi

/-- R123: Subst gives a space for a control code and any other code unchanged; every character a group 0, a 2A or a 2B
stores is substituted so; and no instruction stores anything else: each buffer element after it is the old one or at least
0x20. -/
def Obligations.ControlCodesAreNeverStored : Prop :=
  (∀ x : Byte, (x.toNat < 32 → subst x = 0x20#8) ∧ (32 ≤ x.toNat → subst x = x)) ∧
  (∀ (a b c d : Word) (s : State), gtOf b = 0#4 → ∃ t, exec (.decode a b c d) s = .next t ∧ SegmentStored t b d) ∧
  (∀ (a b c d : Word) (s : State), gtOf b = 2#4 → ∃ t, exec (.decode a b c d) s = .next t ∧ SlotStored t b c d) ∧
  ∀ (i : Instr) (s t : State), exec i s = .next t →
    (∀ k : Fin 8, t.info.psBuf[k] = s.info.psBuf[k] ∨ 32 ≤ t.info.psBuf[k].toNat) ∧
    (∀ k : Fin 64, t.info.rtBuf[k] = s.info.rtBuf[k] ∨ 32 ≤ t.info.rtBuf[k].toNat)

/-- A DECODE sent twice leaves the registers of one, for every group (R200, "Two DECODEs of the same group 2 in a row leave
the same state as one", which the spec derives). -/
def Obligations.DecodeIsIdempotent : Prop :=
  ∀ (a b c d : Word) (s t : State), exec (.decode a b c d) s = .next t →
    ∃ u, exec (.decode a b c d) t = .next u ∧ u.info = t.info

/-! ### Group 0 -/

/-- R150, for both versions: DECODE of a group 0 writes the fields of b and the two characters of d, and reports the fields
of b. -/
def Obligations.GroupZeroCommonPart : Prop :=
  ∀ (a b c d : Word) (s : State), gtOf b = 0#4 →
    ∃ t r, exec (.decode a b c d) s = .next t ∧
      Group0Registers s t a (b.getLsbD 10) (b.extractLsb' 5 5) (b.getLsbD 4) (b.getLsbD 3) (b.extractLsb' 0 2)
        (d.extractLsb' 8 8) (d.extractLsb' 0 8) ∧
      s.Emitted t [.result r] ∧ r.pi = some a ∧ r.pty = some (b.extractLsb' 5 5) ∧ r.tp = some (b.getLsbD 10) ∧
      r.ta = some (b.getLsbD 4) ∧ r.ms = some (b.getLsbD 3)

/-- R151: GRP0A completes, with these registers and this result; nothing else changes. -/
def Obligations.Grp0aWritesAndReports : Prop :=
  ∀ (pi : Word) (tp : Bool) (pty : BitVec 5) (ta ms : Bool) (seg : BitVec 2) (af1 af2 ch0 ch1 : Byte) (s : State),
    ∃ t, exec (.grp0a pi tp pty ta ms seg af1 af2 ch0 ch1) s = .next t ∧
      Group0Registers s t pi tp pty ta ms seg ch0 ch1 ∧
      s.Emitted t [.result { pi := some pi, pty := some pty, tp := some tp, ta := some ta, ms := some ms
                             af := some (afEntries af1 ++ afEntries af2), ps := nameReport s.params t.info
                             pin := none, slc := none, rt := none, clock := none }]

/-- R152: GRP0B does the same without alternative frequencies: af is absent. -/
def Obligations.Grp0bWritesAndReports : Prop :=
  ∀ (pi : Word) (tp : Bool) (pty : BitVec 5) (ta ms : Bool) (seg : BitVec 2) (ch0 ch1 : Byte) (s : State),
    ∃ t, exec (.grp0b pi tp pty ta ms seg ch0 ch1) s = .next t ∧
      Group0Registers s t pi tp pty ta ms seg ch0 ch1 ∧
      s.Emitted t [.result { pi := some pi, pty := some pty, tp := some tp, ta := some ta, ms := some ms
                             af := none, ps := nameReport s.params t.info
                             pin := none, slc := none, rt := none, clock := none }]

/-- R154: the name is reported exactly when all four segments are present, and is then the buffer trimmed as NAME_TRIM
says, which may leave nothing. -/
def Obligations.NameIsReportedWhenComplete : Prop :=
  ∀ (p : Params) (i : StationInfo),
    (nameReport p i = none ↔ ∃ k : Fin 4, i.psSeen[k] = false) ∧
    (∀ l, nameReport p i = some l → p.nameTrim = .trailing → TrimmedTrailing i.psBuf.toList l) ∧
    (∀ l, nameReport p i = some l → p.nameTrim = .both → TrimmedBoth i.psBuf.toList l)

/-- After any sequence of groups 0 that holds every segment, in any order and with any repeats, the reported name is the
trim of the last characters of each segment, in the order of the segments; from any state, so also since a RESET (R157,
"This holds for any arrival order and any number of repeats", which the spec derives). -/
def Obligations.NameIsOrderIndependent : Prop :=
  ∀ (s t : State) (gs : List GroupWords) (d0 d1 d2 d3 : Word),
    (∀ g ∈ gs, gtOf g.b = 0#4) →
    lastSegmentWord gs 0#2 = some d0 → lastSegmentWord gs 1#2 = some d1 →
    lastSegmentWord gs 2#2 = some d2 → lastSegmentWord gs 3#2 = some d3 →
    RunsTo (gs.map GroupWords.decodeInstr) s t →
    nameReport t.params t.info = some (nameTrimOf s.params.nameTrim
      [stored (hi8 d0), stored (lo8 d0), stored (hi8 d1), stored (lo8 d1),
       stored (hi8 d2), stored (lo8 d2), stored (hi8 d3), stored (lo8 d3)])

/-- R153: which codes give an entry, its frequency, and how that is written in MHz; GRP0A reports the two in order and
removes no duplicate. -/
def Obligations.AfCodesGiveFrequencies : Prop :=
  (∀ x : Byte, 1 ≤ x.toNat → x.toNat ≤ 204 → afDecode x = [{ code := x, f100k := 875 + (x.toNat - 1) }]) ∧
  (∀ x : Byte, x.toNat = 0 ∨ 205 ≤ x.toNat → afDecode x = []) ∧
  (∀ x : Byte, ∀ e ∈ afDecode x, presentMhz e =
    Nat.toDigits 10 ((874 + x.toNat) / 10) ++ ['.', Nat.digitChar ((874 + x.toNat) % 10)]) ∧
  (∀ (pi : Word) (tp : Bool) (pty : BitVec 5) (ta ms : Bool) (seg : BitVec 2) (af1 af2 ch0 ch1 : Byte) (s t : State),
    exec (.grp0a pi tp pty ta ms seg af1 af2 ch0 ch1) s = .next t →
      ∃ r, t.outputs = s.outputs ++ [.result r] ∧ r.af = some (afDecode af1 ++ afDecode af2))

/-! ### Group 1 -/

/-- R180, R181: group 1 writes PI when it is latched and nothing else; 1A reports PIN and SLC raw, 1B reports neither. -/
def Obligations.Group1PassesThrough : Prop :=
  ∀ (pi pin slc : Word) (s : State),
    exec (.grp1a pi pin slc) s = .next { s with
      info := { s.info with pi := if s.params.piLatch.g1 then pi else s.info.pi }
      outputs := s.outputs ++ [.result (resultOf (some pi) (some pin) (some slc) none none)] } ∧
    exec (.grp1b pi) s = .next { s with
      info := { s.info with pi := if s.params.piLatch.g1 then pi else s.info.pi }
      outputs := s.outputs ++ [.result (resultOf (some pi) none none none none)] }

/-! ### Group 2 -/

/-- R190, R193, for both versions: a group 2 whose flag differs from the one recorded does what it does where all of RT_BUF
is 0x20, all of RT_SEEN is 0 and its flag is already the recorded one, so that no toggle happens; any other group 2, of either version, keeps every slot but its own; each records its flag, and its
own slot is received and holds its characters afterwards, so the clear comes before the write. -/
def Obligations.ToggleClearsBeforeTheWrite : Prop :=
  ∀ (a b c d : Word) (s : State), gtOf b = 2#4 →
    (NewMessage s (b.getLsbD 4) → exec (.decode a b c d) s = exec (.decode a b c d) { s with info := { s.info with
      rtBuf := Vector.replicate 64 0x20#8
      rtSeen := Vector.replicate 16 false
      rtAb := some (b.getLsbD 4) } }) ∧
    ∃ t, exec (.decode a b c d) s = .next t ∧ t.info.rtAb = some (b.getLsbD 4) ∧
      (∀ k : Fin 16, k.val = (slotOf b).toNat → t.info.rtSeen[k] = true) ∧ SlotStored t b c d ∧
      (¬ NewMessage s (b.getLsbD 4) →
        (∀ k : Fin 16, k.val ≠ (slotOf b).toNat → t.info.rtSeen[k] = s.info.rtSeen[k]) ∧
        (verOf b = .a → ∀ k : Fin 64, k.val / 4 ≠ (slotOf b).toNat → t.info.rtBuf[k] = s.info.rtBuf[k]) ∧
        (verOf b = .b → ∀ k : Fin 64, k.val / 2 ≠ (slotOf b).toNat → t.info.rtBuf[k] = s.info.rtBuf[k]))

/-- R191: GRP2A completes; on a new message all text is cleared first; then its four characters and its slot
flag are written, and the text is reported from the registers after the write; nothing else changes. -/
def Obligations.Grp2aWritesAndReports : Prop :=
  ∀ (pi : Word) (ab : Bool) (slot : BitVec 4) (t0 t1 t2 t3 : Byte) (s : State),
    ∃ t, exec (.grp2a pi ab slot t0 t1 t2 t3) s = .next t ∧
      Group2Registers s t pi ab slot ∧ t.info.rtVer = some .a ∧
      OtherTextKeptOrCleared s t ab (fun k => k.val / 4 = slot.toNat) ∧
      (∀ k : Fin 64, k.val = 4 * slot.toNat → t.info.rtBuf[k] = stored t0) ∧
      (∀ k : Fin 64, k.val = 4 * slot.toNat + 1 → t.info.rtBuf[k] = stored t1) ∧
      (∀ k : Fin 64, k.val = 4 * slot.toNat + 2 → t.info.rtBuf[k] = stored t2) ∧
      (∀ k : Fin 64, k.val = 4 * slot.toNat + 3 → t.info.rtBuf[k] = stored t3) ∧
      s.Emitted t [.result (resultOf none none none (textReport s.params t.info .a) none)]

/-- R192: GRP2B does the same with two characters at 2·slot and 2·slot + 1. -/
def Obligations.Grp2bWritesAndReports : Prop :=
  ∀ (pi : Word) (ab : Bool) (slot : BitVec 4) (t0 t1 : Byte) (s : State),
    ∃ t, exec (.grp2b pi ab slot t0 t1) s = .next t ∧
      Group2Registers s t pi ab slot ∧ t.info.rtVer = some .b ∧
      OtherTextKeptOrCleared s t ab (fun k => k.val / 2 = slot.toNat) ∧
      (∀ k : Fin 64, k.val = 2 * slot.toNat → t.info.rtBuf[k] = stored t0) ∧
      (∀ k : Fin 64, k.val = 2 * slot.toNat + 1 → t.info.rtBuf[k] = stored t1) ∧
      s.Emitted t [.result (resultOf none none none (textReport s.params t.info .b) none)]

/-- R194, R195, R196: the text is reported exactly when twice the counted slots reach the expected number and something
but spaces is left; the report is then the reported positions, cut at a carriage return, without the spaces at both ends;
every group 2 reports it for its own version, from the registers after its write. -/
def Obligations.TextIsReportedFromHalfItsSlots : Prop :=
  (∀ (a b c d : Word) (s : State), gtOf b = 2#4 → ∃ t, exec (.decode a b c d) s = .next t ∧
    s.Emitted t [.result (resultOf none none none (textReport s.params t.info (verOf b)) none)]) ∧
  ∀ (p : Params) (i : StationInfo) (v : Version),
    (2 * countedSlots p i v < expectedSlots v → textReport p i v = none) ∧
    (expectedSlots v ≤ 2 * countedSlots p i v → (∀ x ∈ textBeforeTrim i v, x = 0x20#8) → textReport p i v = none) ∧
    (expectedSlots v ≤ 2 * countedSlots p i v → (∃ x ∈ textBeforeTrim i v, x ≠ 0x20#8) →
      ∃ l, textReport p i v = some l ∧ l ≠ [] ∧ TrimmedBoth (textBeforeTrim i v) l)

/-- CutCR keeps what comes before the first carriage return; in every state that meets the invariant of the registers it
changes nothing, since RT_BUF holds no carriage return (R197, "`CutCR(s) = s` in every reachable state", which the spec
derives). -/
def Obligations.CarriageReturnNeverCuts : Prop :=
  (∀ l : List Byte, 0x0D#8 ∉ l → cutCR l = l) ∧
  (∀ u v : List Byte, 0x0D#8 ∉ u → cutCR (u ++ 0x0D#8 :: v) = u) ∧
  (∀ (p : Params) (i : StationInfo) (n : Nat), i.Inv p → cutCR (i.rtBuf.toList.take n) = i.rtBuf.toList.take n)

/-- After a group 2 whose flag differs from RT_AB, RT_BUF holds 0x20 outside the slot just written, and RT_SEEN holds
exactly that slot (R199, "Old text never survives a flip", which the spec derives). -/
def Obligations.OldTextNeverSurvivesFlip : Prop :=
  ∀ (a b c d : Word) (s t : State) (x : Bool), gtOf b = 2#4 → s.info.rtAb = some x → x ≠ abOf b →
    exec (.decode a b c d) s = .next t →
      (∀ k : Fin 16, t.info.rtSeen[k] = true ↔ k.val = (slotOf b).toNat) ∧
      (verOf b = .a → ∀ k : Fin 64, k.val / 4 ≠ (slotOf b).toNat → t.info.rtBuf[k] = 0x20#8) ∧
      (verOf b = .b → ∀ k : Fin 64, k.val / 2 ≠ (slotOf b).toNat → t.info.rtBuf[k] = 0x20#8)

/-- What a 2B report reads: RT_BUF at the positions 0..31 only, "even if 2A wrote them" beyond, and under PREFIX the slot
flags 0..7 only (R198, which the spec derives). -/
def Obligations.VersionBReportReadsItsHalf : Prop :=
  ∀ (p : Params) (i j : StationInfo), (∀ k : Fin 64, k.val < 32 → i.rtBuf[k] = j.rtBuf[k]) →
    (∀ k : Fin 16, (p.rtCountWindow = .allSlots ∨ k.val < 8) → i.rtSeen[k] = j.rtSeen[k]) →
    textReport p i .b = textReport p j .b

/-- While the text is clear, as it is before the first group 2 after a reset, the value of RT_AB makes no difference but to
the flag QUERY shows in Q.raw and to RT_AB itself; and none at all to what a group 2 does (R40, "NONE and SOME x behave the
same", which the spec derives). -/
def Obligations.FirstFlagShowsInRawViewOnly : Prop :=
  ∀ (i : Instr) (s : State) (x y : Option Bool),
    (∀ k : Fin 64, s.info.rtBuf[k] = 0x20#8) → (∀ k : Fin 16, s.info.rtSeen[k] = false) →
    (∃ t u o p, exec i { s with info := { s.info with rtAb := x } } = .next t ∧
      exec i { s with info := { s.info with rtAb := y } } = .next u ∧
      t.outputs = s.outputs ++ o ∧ u.outputs = s.outputs ++ p ∧ o.map withoutRawFlag = p.map withoutRawFlag ∧
      { u.info with rtAb := t.info.rtAb } = t.info) ∧
    (i.effective.isGroup2 = true →
      exec i { s with info := { s.info with rtAb := x } } = exec i { s with info := { s.info with rtAb := y } })

/-! ### Group 4 -/

/-- R231, R235, R236: GRP4A with MJD > 0 replaces every clock field by what it carries, unchecked, and reports it;
with MJD = 0 it reports pi only and leaves the clock. -/
def Obligations.Grp4aSetsTheClock : Prop :=
  ∀ (pi : Word) (mjd : BitVec 17) (hour : BitVec 5) (minute : BitVec 6) (ofsSign : Bool) (ofsHalf : BitVec 5) (s : State),
    (0 < mjd.toNat → ∃ c : ClockRec,
      c = { mjd := mjd, year := (mjdToDate s.params.mjdRule mjd).year, month := (mjdToDate s.params.mjdRule mjd).month
            day := (mjdToDate s.params.mjdRule mjd).day, hour := hour, minute := minute, ofsSign := ofsSign
            ofsHalf := ofsHalf } ∧
      exec (.grp4a pi mjd hour minute ofsSign ofsHalf) s = .next { s with
        info := { s.info with
          pi := if s.params.piLatch.g4 then pi else s.info.pi
          clkValid := true
          clk := c }
        outputs := s.outputs ++ [.result (resultOf (some pi) none none none (some c))] }) ∧
    (mjd = 0#17 → exec (.grp4a pi mjd hour minute ofsSign ofsHalf) s = .next { s with
        info := { s.info with pi := if s.params.piLatch.g4 then pi else s.info.pi }
        outputs := s.outputs ++ [.result (resultOf (some pi) none none none none)] })

/-- R234: GRP4B reports pi and changes no clock field. -/
def Obligations.Grp4bReportsPiOnly : Prop :=
  ∀ (pi : Word) (s : State), exec (.grp4b pi) s = .next { s with
    info := { s.info with pi := if s.params.piLatch.g4 then pi else s.info.pi }
    outputs := s.outputs ++ [.result (resultOf (some pi) none none none none)] }

/-- For 15079 ≤ MJD ≤ 88127, under either rule of the model (log 2), MJD_TO_DATE is the Gregorian date lying MJD days after
1858-11-17, the law R232 requires (the calendar by its day-after rule, `gregorianDate`). -/
def Obligations.MjdToDateIsGregorianInRange : Prop :=
  ∀ (r : MjdRule) (mjd : BitVec 17), 15079 ≤ mjd.toNat → mjd.toNat ≤ 88127 → mjdToDate r mjd = gregorianDate mjd.toNat

/-- The rational and the integer form of the default formula agree on every MJD, and give the values R233 lists (R233,
"The two forms agree for every mjd in 0..131071", which the spec derives by evaluation). -/
def Obligations.DateFormulaFormsAgree : Prop :=
  (∀ mjd : BitVec 17, rdsDateRat mjd.toNat = rdsDate mjd.toNat ∧ mjdToDate .rdsFormula mjd = rdsDate mjd.toNat) ∧
  rdsDate 1 = ⟨1859, -1, 20⟩ ∧ rdsDate 15078 = ⟨1900, 2, 31⟩ ∧ rdsDate 88128 = ⟨2100, 2, 29⟩ ∧
  rdsDate 131071 = ⟨2217, 9, 25⟩

/-- While CLK_VALID is 0 the clock fields are never reported: changing them changes no output and no other register
(R43, "While CLK_VALID = 0 they are never reported"). -/
def Obligations.AbsentClockIsUnobservable : Prop :=
  ∀ (i : Instr) (s : State) (c : ClockRec), s.info.clkValid = false →
    ∃ t u, exec i s = .next t ∧ exec i { s with info := { s.info with clk := c } } = .next u ∧
      u.outputs = t.outputs ∧ { u.info with clk := t.info.clk } = t.info ∧
      (t.info.clkValid = true → u.info.clk = t.info.clk)

/-! ### RESET, QUERY, CMDNOP -/

/-- R47, R260: RESET puts every register to its reset value, and outputs nothing. -/
def Obligations.ResetRestoresEveryField : Prop :=
  ∀ s : State, exec .reset s = .next { s with info :=
    { pi := 0x0000#16, pty := 0#5, tp := false, ta := false, ms := false
      psBuf := Vector.replicate 8 0x20#8, psSeen := Vector.replicate 4 false
      rtBuf := Vector.replicate 64 0x20#8, rtSeen := Vector.replicate 16 false
      rtAb := none, rtVer := none, clkValid := false
      clk := { mjd := 0#17, year := 0, month := 0, day := 0, hour := 0#5, minute := 0#6, ofsSign := false, ofsHalf := 0#5 } } }

/-- R300: construction leaves the block as RESET does: RESET in the state after construction changes nothing. -/
def Obligations.PowerOnIsTheResetState : Prop :=
  exec .reset State.reset = .next State.reset ∧ ∀ s t : State, exec .reset s = .next t → t.info = State.reset.info

/-- R261: QUERY outputs the snapshot of the registers, the name and the text by the report predicates, the text for the
version of the most recent group 2. -/
def Obligations.QueryReportsTheRegisters : Prop :=
  ∀ s : State, ∃ q : Snapshot, exec .query s = .next { s with outputs := s.outputs ++ [.snapshot q] } ∧
    q.pi = s.info.pi ∧ q.pty = s.info.pty ∧ q.tp = s.info.tp ∧ q.ta = s.info.ta ∧ q.ms = s.info.ms ∧
    q.ps = nameReport s.params s.info ∧
    (s.info.rtVer = none → q.rt = none) ∧
    (∀ v, s.info.rtVer = some v → q.rt = textReport s.params s.info v) ∧
    (s.info.clkValid = false → q.clock = none) ∧
    (s.info.clkValid = true → q.clock = some s.info.clk) ∧
    q.raw = { psBuf := s.info.psBuf, psSeen := s.info.psSeen, rtBuf := s.info.rtBuf, rtSeen := s.info.rtSeen
              rtAb := s.info.rtAb, rtVer := s.info.rtVer }

/-- What R263 says, which the spec derives: QUERY changes no register; a second one outputs an equal snapshot; and a DECODE after it does what it would have
done without it. -/
def Obligations.QueryIsReadOnly : Prop :=
  ∀ s t : State, exec .query s = .next t →
    t.info = s.info ∧
    (∃ u q, t.outputs = s.outputs ++ [.snapshot q] ∧ exec .query t = .next u ∧ u.outputs = t.outputs ++ [.snapshot q]) ∧
    (∀ a b c d : Word, ∃ u v r, exec (.decode a b c d) s = .next u ∧ exec (.decode a b c d) t = .next v ∧
      v.info = u.info ∧ u.outputs = s.outputs ++ [.result r] ∧ v.outputs = t.outputs ++ [.result r])

/-- R262: CMDNOP does nothing. -/
def Obligations.CmdnopDoesNothing : Prop :=
  ∀ s : State, exec .cmdnop s = .next s

/-- The two orders R305 allows: a DECODE before a RESET is cleared by it; a DECODE after a RESET starts from the reset state. -/
def Obligations.ResetOrdersAgainstDecode : Prop :=
  ∀ (a b c d : Word) (s : State),
    (∃ t u, exec (.decode a b c d) s = .next t ∧ exec .reset t = .next u ∧ u.info = StationInfo.reset) ∧
    (∃ t, exec .reset s = .next t ∧
      exec (.decode a b c d) t = exec (.decode a b c d) { s with info := StationInfo.reset })

/-! ### Rules about the whole machine -/

/-- Who writes what (R32 to R43, R130): but for RESET, PTY, the flags and the name are written by groups 0 only, the text
by groups 2 only, the clock by 4A with MJD > 0 only; QUERY, CMDNOP and GRPNOP write no register. -/
def Obligations.EachGroupWritesItsOwnFields : Prop :=
  ∀ (i : Instr) (s t : State), i ≠ .reset → exec i s = .next t →
    (i.effective.isGroup0 = false → SameTuning s.info t.info ∧ SameName s.info t.info) ∧
    (i.effective.isGroup2 = false → SameText s.info t.info) ∧
    (i.effective.setsClock = false → SameClock s.info t.info) ∧
    (i = .query ∨ i = .cmdnop ∨ i.effective.mnemonic = "GRPNOP" → t.info = s.info)

/-- What only RESET takes back (R37, R42, R301): PS_SEEN bits, CLK_VALID, RT_AB and RT_VER stay set; RT_SEEN bits stay set
unless the toggle clear happens, which leaves exactly one slot received (R46). -/
def Obligations.CompletionFallsOnlyByResetOrToggle : Prop :=
  ∀ (i : Instr) (s t : State), i ≠ .reset → exec i s = .next t →
    (∀ k : Fin 4, s.info.psSeen[k] = true → t.info.psSeen[k] = true) ∧
    (s.info.clkValid = true → t.info.clkValid = true) ∧
    (s.info.rtAb.isSome = true → t.info.rtAb.isSome = true) ∧
    (s.info.rtVer.isSome = true → t.info.rtVer.isSome = true) ∧
    ((∃ k : Fin 16, s.info.rtSeen[k] = true ∧ t.info.rtSeen[k] = false) →
      i.effective.flips s.info.rtAb = true ∧ ∃ j : Fin 16, ∀ k : Fin 16, t.info.rtSeen[k] = true ↔ k = j)

/-- Every step keeps the invariant: printable buffers, the fill value where nothing was received, RT_AB and RT_VER
together, a clock that is absent or dated, and records of the form R127 gives them on the ports (R36 to R46). -/
def Obligations.StepKeepsTheInvariant : Prop :=
  ∀ s t : State, s.Inv → step s = .next t → t.Inv

/-- The state after construction meets the invariant. -/
def Obligations.ResetStateMeetsTheInvariant : Prop :=
  State.reset.Inv

/-! ### Presentation -/

/-- R126: four hexadecimal digits, most significant first, in the case HEX_CASE says, upper by default; PI and SLC
are presented so. -/
def Obligations.HexIsFourDigits : Prop :=
  (∀ (hc : HexCase) (x3 x2 x1 x0 : BitVec 4), hex4 hc (x3 ++ x2 ++ x1 ++ x0) =
    [hexDigit hc x3, hexDigit hc x2, hexDigit hc x1, hexDigit hc x0]) ∧
  (∀ x : BitVec 4,
    ['0', '1', '2', '3', '4', '5', '6', '7', '8', '9', 'A', 'B', 'C', 'D', 'E', 'F'][x.toNat]? =
      some (hexDigit .upper x)) ∧
  (∀ x : BitVec 4,
    ['0', '1', '2', '3', '4', '5', '6', '7', '8', '9', 'a', 'b', 'c', 'd', 'e', 'f'][x.toNat]? =
      some (hexDigit .lower x)) ∧
  defaultPresentation.hexCase = .upper ∧
  (∀ (pr : Presentation) (v : Word), presentPi pr v = hex4 pr.hexCase v ∧ presentSlc pr v = hex4 pr.hexCase v)

/-- R238: the time as HH:MM, each of the two as two decimal digits, from the hour and the minute alone. -/
def Obligations.TimeStringIsHourAndMinute : Prop :=
  ∀ (hour : BitVec 5) (minute : BitVec 6), timeString hour minute =
    [Nat.digitChar (hour.toNat / 10), Nat.digitChar (hour.toNat % 10), ':',
     Nat.digitChar (minute.toNat / 10), Nat.digitChar (minute.toNat % 10)]

/-- R239, R240: the offset in hours, signed by the sign bit, and its default string. -/
def Obligations.OffsetValueAndString : Prop :=
  ∀ (sign : Bool) (half : BitVec 5),
    (sign = false → 2 * offsetHours sign half = (half.toNat : Rat)) ∧
    (sign = true → 2 * offsetHours sign half = -(half.toNat : Rat)) ∧
    defaultPresentation.offsetFormat sign half =
      [if sign then '-' else '+'] ++ Nat.toDigits 10 (half.toNat / 2) ++
        ['.', if half.toNat % 2 = 1 then '5' else '0']

/-- The date as YYYY-MM-DD for every triple in the ranges of R237. For a triple in them that is no calendar date, such as
(2100, 2, 29), the string is the model's choice, where R237 and 95_test_vectors.md differ (log 12). -/
def Obligations.DateStringIsYearMonthDay : Prop :=
  ∀ y m d : Nat, y ≤ 9999 → 1 ≤ m → m ≤ 12 → 1 ≤ d → d ≤ 31 → dateString ⟨y, m, d⟩ =
    [Nat.digitChar (y / 1000), Nat.digitChar (y / 100 % 10), Nat.digitChar (y / 10 % 10), Nat.digitChar (y % 10), '-',
     Nat.digitChar (m / 10), Nat.digitChar (m % 10), '-', Nat.digitChar (d / 10), Nat.digitChar (d % 10)]
end

