-- ==== Sys2Proof/Laws/Encoding.lean ====
section
/-!
SUPPORT. The bit fields of a word as numbers: what each accessor of Decode.lean reads, so that later proofs about
encodings work with arithmetic.
-/

namespace Sys2Proof

theorem hi8_toNat (w : Word) : (hi8 w).toNat = w.toNat / 256 := by
  have := w.isLt
  simp only [hi8, BitVec.extractLsb'_toNat, Nat.shiftRight_eq_div_pow]
  omega

theorem lo8_toNat (w : Word) : (lo8 w).toNat = w.toNat % 256 := by
  simp only [lo8, BitVec.extractLsb'_toNat, Nat.shiftRight_eq_div_pow]
  omega

theorem gtOf_toNat (b : Word) : (gtOf b).toNat = b.toNat / 4096 := by
  have := b.isLt
  simp only [gtOf, BitVec.extractLsb'_toNat, Nat.shiftRight_eq_div_pow]
  omega

theorem slotOf_toNat (b : Word) : (slotOf b).toNat = b.toNat % 16 := by
  simp only [slotOf, BitVec.extractLsb'_toNat, Nat.shiftRight_eq_div_pow]
  omega

theorem segOf_toNat (b : Word) : (segOf b).toNat = b.toNat % 4 := by
  simp only [segOf, BitVec.extractLsb'_toNat, Nat.shiftRight_eq_div_pow]
  omega

theorem ptyOf_toNat (b : Word) : (ptyOf b).toNat = b.toNat / 32 % 32 := by
  simp only [ptyOf, BitVec.extractLsb'_toNat, Nat.shiftRight_eq_div_pow]

/-- A single bit as a digit of the word. -/
theorem getLsbD_iff (w : Word) (k : Nat) : w.getLsbD k = true ↔ w.toNat / 2 ^ k % 2 = 1 := by
  rw [BitVec.getLsbD, Nat.testBit_eq_decide_div_mod_eq]
  exact decide_eq_true_iff

/-- The two bytes of a word, put together again. -/
theorem hi8_append_lo8 (w : Word) : (hi8 w ++ lo8 w : BitVec 16) = w := by
  apply BitVec.eq_of_toNat_eq
  have := w.isLt
  rw [BitVec.toNat_append, hi8_toNat, lo8_toNat, ← Nat.shiftLeft_add_eq_or_of_lt (by omega), Nat.shiftLeft_eq]
  omega

@[simp] theorem hi8_append (x y : Byte) : hi8 (x ++ y : BitVec 16) = x := by
  apply BitVec.eq_of_toNat_eq
  have := x.isLt
  have := y.isLt
  rw [hi8_toNat, BitVec.toNat_append, ← Nat.shiftLeft_add_eq_or_of_lt (by omega), Nat.shiftLeft_eq]
  omega

@[simp] theorem lo8_append (x y : Byte) : lo8 (x ++ y : BitVec 16) = y := by
  apply BitVec.eq_of_toNat_eq
  have := x.isLt
  have := y.isLt
  rw [lo8_toNat, BitVec.toNat_append, ← Nat.shiftLeft_add_eq_or_of_lt (by omega), Nat.shiftLeft_eq]
  omega

/-- Appending bit vectors as numbers. -/
theorem toNat_append_add {m n : Nat} (x : BitVec m) (y : BitVec n) :
    (x ++ y).toNat = x.toNat * 2 ^ n + y.toNat := by
  rw [BitVec.toNat_append, ← Nat.shiftLeft_add_eq_or_of_lt y.isLt, Nat.shiftLeft_eq]

/-- Word B of a group 0 as a number. -/
theorem encodeB0_toNat (ver tp : BitVec 1) (pty : BitVec 5) (ta ms : BitVec 1) (seg : BitVec 2) :
    (encodeB0 ver tp pty ta ms seg).toNat =
      ver.toNat * 2048 + tp.toNat * 1024 + pty.toNat * 32 + ta.toNat * 16 + ms.toNat * 8 + seg.toNat := by
  show BitVec.toNat (0#4 ++ ver ++ tp ++ pty ++ ta ++ ms ++ 0#1 ++ seg) = _
  simp only [toNat_append_add, BitVec.toNat_ofNat]
  omega

/-- Word B of a group 2 as a number. -/
theorem encodeB2_toNat (ver ab : BitVec 1) (slot : BitVec 4) :
    (encodeB2 ver ab slot).toNat = 8192 + ver.toNat * 2048 + ab.toNat * 16 + slot.toNat := by
  show BitVec.toNat (2#4 ++ ver ++ 0#6 ++ ab ++ slot) = _
  simp only [toNat_append_add, BitVec.toNat_ofNat]
  omega

/-- Word B of a group 4A as a number. -/
theorem encodeB4_toNat (mjd : BitVec 17) : (encodeB4 mjd).toNat = 16384 + mjd.toNat / 32768 := by
  have := mjd.isLt
  show BitVec.toNat (4#4 ++ 0#1 ++ 0#9 ++ mjd.extractLsb' 15 2) = _
  simp only [toNat_append_add, BitVec.toNat_ofNat, BitVec.extractLsb'_toNat, Nat.shiftRight_eq_div_pow]
  omega

/-- Word C of a group 4A as a number. -/
theorem encodeC4_toNat (mjd : BitVec 17) (hour : BitVec 5) :
    (encodeC4 mjd hour).toNat = mjd.toNat % 32768 * 2 + hour.toNat / 16 := by
  have := hour.isLt
  show BitVec.toNat (mjd.extractLsb' 0 15 ++ hour.extractLsb' 4 1) = _
  simp only [toNat_append_add, BitVec.extractLsb'_toNat, Nat.shiftRight_eq_div_pow]
  omega

/-- Word D of a group 4A as a number. -/
theorem encodeD4_toNat (hour : BitVec 5) (minute : BitVec 6) (ofsSign : BitVec 1) (ofsHalf : BitVec 5) :
    (encodeD4 hour minute ofsSign ofsHalf).toNat =
      hour.toNat % 16 * 4096 + minute.toNat * 64 + ofsSign.toNat * 32 + ofsHalf.toNat := by
  show BitVec.toNat (hour.extractLsb' 0 4 ++ minute ++ ofsSign ++ ofsHalf) = _
  simp only [toNat_append_add, BitVec.extractLsb'_toNat, Nat.shiftRight_eq_div_pow]
  omega

end Sys2Proof
end

