-- ==== Sys2Proof/Laws/Exec.lean ====
section
/-!
SUPPORT. What executing an instruction does, said once for all of them: the registers after it and the records it puts on
the ports, as functions of the instruction that runs (the group instruction of a DECODE), and one equation for `exec`.
-/

namespace Sys2Proof.Machine

/-- The registers after an instruction. -/
def infoAfter (p : Params) (i : StationInfo) : Instr → StationInfo
  | .decode _ _ _ _ => i
  | .reset => .reset
  | .query => i
  | .cmdnop => i
  | .grp0a pi tp pty ta ms seg _ _ ch0 ch1 => group0Common p pi tp pty ta ms seg ch0 ch1 i
  | .grp0b pi tp pty ta ms seg ch0 ch1 => group0Common p pi tp pty ta ms seg ch0 ch1 i
  | .grp1a pi _ _ => latchPi p.piLatch.g1 pi i
  | .grp1b pi => latchPi p.piLatch.g1 pi i
  | .grp2a pi ab slot t0 t1 t2 t3 => group2aInfo p pi ab slot t0 t1 t2 t3 i
  | .grp2b pi ab slot t0 t1 => group2bInfo p pi ab slot t0 t1 i
  | .grp4a pi mjd hour minute ofsSign ofsHalf =>
    if 0 < mjd.toNat then
      { latchPi p.piLatch.g4 pi i with clkValid := true, clk := clockOf p mjd hour minute ofsSign ofsHalf }
    else latchPi p.piLatch.g4 pi i
  | .grp4b pi => latchPi p.piLatch.g4 pi i
  | .grpnop _ => i

/-- The records an instruction puts on the ports. -/
def outputsOf (p : Params) (i : StationInfo) : Instr → List Output
  | .decode _ _ _ _ => []
  | .reset => []
  | .query => [.snapshot (snapshotOf p i)]
  | .cmdnop => []
  | .grp0a pi tp pty ta ms seg af1 af2 ch0 ch1 =>
    [.result { group0Result p pi tp pty ta ms (group0Common p pi tp pty ta ms seg ch0 ch1 i) with
      af := some (afDecode af1 ++ afDecode af2) }]
  | .grp0b pi tp pty ta ms seg ch0 ch1 =>
    [.result (group0Result p pi tp pty ta ms (group0Common p pi tp pty ta ms seg ch0 ch1 i))]
  | .grp1a pi pin slc => [.result { DecodedFields.empty with pi := some pi, pin := some pin, slc := some slc }]
  | .grp1b pi => [.result { DecodedFields.empty with pi := some pi }]
  | .grp2a pi ab slot t0 t1 t2 t3 =>
    [.result { DecodedFields.empty with rt := textReport p (group2aInfo p pi ab slot t0 t1 t2 t3 i) .a }]
  | .grp2b pi ab slot t0 t1 =>
    [.result { DecodedFields.empty with rt := textReport p (group2bInfo p pi ab slot t0 t1 i) .b }]
  | .grp4a pi mjd hour minute ofsSign ofsHalf =>
    if 0 < mjd.toNat then
      [.result { DecodedFields.empty with pi := some pi, clock := some (clockOf p mjd hour minute ofsSign ofsHalf) }]
    else [.result { DecodedFields.empty with pi := some pi }]
  | .grp4b pi => [.result { DecodedFields.empty with pi := some pi }]
  | .grpnop _ => [.result .empty]

/-- The state after the instruction that runs. -/
def stateAfter (i : Instr) (s : State) : State :=
  { s with info := infoAfter s.params s.info i, outputs := s.outputs ++ outputsOf s.params s.info i }

@[simp] theorem stateAfter_params (i : Instr) (s : State) : (stateAfter i s).params = s.params := rfl
@[simp] theorem stateAfter_pos (i : Instr) (s : State) : (stateAfter i s).pos = s.pos := rfl
@[simp] theorem stateAfter_pending (i : Instr) (s : State) : (stateAfter i s).pending = s.pending := rfl
@[simp] theorem stateAfter_info (i : Instr) (s : State) : (stateAfter i s).info = infoAfter s.params s.info i := rfl
@[simp] theorem stateAfter_outputs (i : Instr) (s : State) :
    (stateAfter i s).outputs = s.outputs ++ outputsOf s.params s.info i := rfl

/-- A command without output leaves the list of outputs as it is. -/
theorem complete_eq (s : State) (i : StationInfo) :
    s.complete i = .next { s with info := i, outputs := s.outputs ++ [] } := by
  rw [List.append_nil]; rfl

/-- Everything `exec` can do: one next state, given by the instruction that runs. -/
theorem exec_eq (i : Instr) (s : State) : exec i s = .next (stateAfter i.effective s) := by
  have group : ∀ g : GroupWords, exec (decodeGroup g) s = .next (stateAfter (decodeGroup g) s) := by
    intro g
    unfold decodeGroup
    cases groupRow g.b <;> first
      | rfl
      | (simp only [exec, execGrp4a, stateAfter, infoAfter, outputsOf]
         split <;> rfl)
  cases i with
  | decode a b c d =>
    refine Eq.trans ?_ (group ⟨a, b, c, d⟩)
    simp only [exec, execDecode, decodeGroup]
    cases groupRow b <;> rfl
  | reset => exact complete_eq s _
  | cmdnop => exact complete_eq s _
  | grp4a pi mjd hour minute ofsSign ofsHalf =>
    simp only [exec, execGrp4a, Instr.effective, stateAfter, infoAfter, outputsOf]
    split <;> rfl
  | _ => rfl

/-- The same, for a state that `exec` is known to answer. -/
theorem exec_next {i : Instr} {s t : State} (h : exec i s = .next t) : t = stateAfter i.effective s := by
  rw [exec_eq] at h
  exact (Host.Outcome.next.inj h).symm

/-- What runs is never a DECODE itself. -/
theorem effective_ne_decode (i : Instr) (a b c d : Word) : i.effective ≠ .decode a b c d := by
  cases i <;> simp only [Instr.effective, ne_eq, reduceCtorEq, not_false_eq_true]
  unfold decodeGroup
  split <;> simp

end Sys2Proof.Machine
end

