-- ==== Sys2Proof/Laws/Operands.lean ====
section
/-!
SUPPORT. What the operand and report operations can answer: substitution, the trims, the cut at a carriage return.
-/

namespace Sys2Proof.Machine

/-! ### Substitution -/

/-- A stored character is never a control code. -/
theorem le_subst (x : Byte) : 0x20#8 ≤ subst x := by
  unfold subst
  split
  · exact BitVec.le_refl _
  · exact BitVec.not_lt.mp ‹_›

/-- A code that is no control code is stored unchanged. -/
theorem subst_of_le {x : Byte} (h : 0x20#8 ≤ x) : subst x = x :=
  if_neg (BitVec.not_lt.mpr h)

/-! ### Trims -/

/-- TrimLeading removes spaces at the start and leaves no space there. -/
theorem trimLeading_spec (l : List Byte) :
    ∃ n, l = List.replicate n 0x20#8 ++ trimLeading l ∧ (trimLeading l).head? ≠ some 0x20#8 := by
  induction l with
  | nil => exact ⟨0, by simp [trimLeading]⟩
  | cons x xs ih =>
    by_cases hx : x = 0x20#8
    · obtain ⟨n, h1, h2⟩ := ih
      have e : trimLeading (x :: xs) = trimLeading xs := by simp [trimLeading, hx]
      refine ⟨n + 1, ?_, by rw [e]; exact h2⟩
      rw [e, List.replicate_succ, List.cons_append, ← h1, hx]
    · have e : trimLeading (x :: xs) = x :: xs := by
        have : (x == 0x20#8) = false := by simpa using hx
        simp only [trimLeading, List.dropWhile_cons, this, Bool.false_eq_true, if_false]
      exact ⟨0, by simp [e], by simpa [e] using hx⟩

/-- TrimTrailing removes spaces at the end and leaves no space there. -/
theorem trimTrailing_spec (l : List Byte) :
    ∃ n, l = trimTrailing l ++ List.replicate n 0x20#8 ∧ (trimTrailing l).getLast? ≠ some 0x20#8 := by
  obtain ⟨n, h1, h2⟩ := trimLeading_spec l.reverse
  refine ⟨n, ?_, by simpa [trimTrailing] using h2⟩
  have := congrArg List.reverse h1
  simpa [trimTrailing] using this

/-- TrimTrailing keeps a start that is no space. -/
theorem trimTrailing_head {l : List Byte} (h : l.head? ≠ some 0x20#8) : (trimTrailing l).head? ≠ some 0x20#8 := by
  obtain ⟨n, h1, -⟩ := trimTrailing_spec l
  intro e
  apply h
  rw [h1]
  cases ht : trimTrailing l with
  | nil => simp [ht] at e
  | cons x xs => simpa [ht] using e

/-- TrimBoth removes spaces at both ends and leaves none there. -/
theorem trimBoth_spec (l : List Byte) :
    ∃ m n, l = List.replicate m 0x20#8 ++ trimBoth l ++ List.replicate n 0x20#8 ∧
      (trimBoth l).head? ≠ some 0x20#8 ∧ (trimBoth l).getLast? ≠ some 0x20#8 := by
  obtain ⟨m, h1, h2⟩ := trimLeading_spec l
  obtain ⟨n, h3, h4⟩ := trimTrailing_spec (trimLeading l)
  refine ⟨m, n, ?_, trimTrailing_head h2, h4⟩
  rw [List.append_assoc]
  exact h1.trans (congrArg _ h3)

theorem mem_of_mem_trimTrailing {x : Byte} {l : List Byte} (h : x ∈ trimTrailing l) : x ∈ l := by
  obtain ⟨n, h1, -⟩ := trimTrailing_spec l
  rw [h1]
  exact List.mem_append_left _ h

theorem mem_of_mem_trimBoth {x : Byte} {l : List Byte} (h : x ∈ trimBoth l) : x ∈ l := by
  obtain ⟨m, n, h1, -⟩ := trimBoth_spec l
  rw [h1]
  exact List.mem_append_left _ (List.mem_append_right _ h)

theorem length_trimTrailing_le (l : List Byte) : (trimTrailing l).length ≤ l.length := by
  obtain ⟨n, h1, -⟩ := trimTrailing_spec l
  have := congrArg List.length h1
  simp at this
  omega

theorem length_trimBoth_le (l : List Byte) : (trimBoth l).length ≤ l.length := by
  obtain ⟨m, n, h1, -⟩ := trimBoth_spec l
  have := congrArg List.length h1
  simp at this
  omega

/-- A name report's codes stand in the buffer, whichever end is trimmed. -/
theorem mem_of_mem_nameTrimOf {t : NameTrim} {x : Byte} {l : List Byte} (h : x ∈ nameTrimOf t l) : x ∈ l := by
  cases t
  · exact mem_of_mem_trimTrailing h
  · exact mem_of_mem_trimBoth h

theorem length_nameTrimOf_le (t : NameTrim) (l : List Byte) : (nameTrimOf t l).length ≤ l.length := by
  cases t
  · exact length_trimTrailing_le l
  · exact length_trimBoth_le l

/-! ### The cut at a carriage return -/

theorem mem_of_mem_cutCR {x : Byte} {l : List Byte} (h : x ∈ cutCR l) : x ∈ l :=
  (List.takeWhile_sublist _).mem h

theorem length_cutCR_le (l : List Byte) : (cutCR l).length ≤ l.length :=
  (List.takeWhile_sublist _).length_le

/-! ### What a report can be -/

/-- NameReport is present exactly when the name is complete, and is then the trimmed buffer. -/
theorem nameReport_eq_some {p : Params} {i : StationInfo} {l : List Byte} :
    nameReport p i = some l ↔ psComplete i = true ∧ nameTrimOf p.nameTrim i.psBuf.toList = l := by
  unfold nameReport
  split <;> simp_all

/-- TextReport is present exactly when the text is ready and not empty, and is then the assembled text. -/
theorem textReport_eq_some {p : Params} {i : StationInfo} {v : Version} {l : List Byte} :
    textReport p i v = some l ↔ rtReady p i v = true ∧ l ≠ [] ∧ rtAssembled i v = l := by
  unfold textReport
  by_cases hr : rtReady p i v = true
  · by_cases he : rtAssembled i v = []
    · simp only [hr, he, if_true, true_and, reduceCtorEq, false_iff, not_and]
      exact fun hl e => hl e.symm
    · simp only [hr, he, if_true, if_false, Option.some.injEq, true_and]
      exact ⟨fun e => ⟨e ▸ he, e⟩, fun e => e.2⟩
  · simp [hr]

/-- The codes of an assembled text stand in the buffer. -/
theorem mem_of_mem_rtAssembled {i : StationInfo} {v : Version} {x : Byte} (h : x ∈ rtAssembled i v) :
    x ∈ i.rtBuf.toList :=
  List.mem_of_mem_take (mem_of_mem_cutCR (mem_of_mem_trimBoth h))

/-- An assembled text has at most 64 codes. -/
theorem length_rtAssembled_le (i : StationInfo) (v : Version) : (rtAssembled i v).length ≤ 64 := by
  refine (length_trimBoth_le _).trans ((length_cutCR_le _).trans ?_)
  simp only [List.length_take, Vector.length_toList]
  omega

/-- The toggle clear happens on a later call with the other flag only (R190). -/
theorem abDiffers_iff {r : Option Bool} {ab : Bool} : abDiffers r ab = true ↔ r = some (!ab) := by
  cases r with
  | none => simp [abDiffers]
  | some x => cases x <;> cases ab <;> simp [abDiffers]

end Sys2Proof.Machine
end

