-- ==== Sys2Proof/Laws/Ops.lean ====
section
/-!
SUPPORT. What each named operation on buffers, on the command stream and on the outcome of a command can do, said once.
-/

namespace Sys2Proof.Machine

/-! ### Buffers -/

/-- Reading one element after a write: the written one, or the old one. -/
theorem getElem_writeAt {α : Type} {n : Nat} (buf : Vector α n) (i : Fin n) (v : α) (k : Nat) (h : k < n) :
    (writeAt buf i v)[k] = if i.val = k then v else buf[k] :=
  Vector.getElem_set ..

/-- The same for an index that carries its bound. -/
theorem getFin_writeAt {α : Type} {n : Nat} (buf : Vector α n) (i k : Fin n) (v : α) :
    (writeAt buf i v)[k] = if i = k then v else buf[k] := by
  simp only [Fin.getElem_fin, getElem_writeAt, Fin.ext_iff]

/-- Writing the same element twice keeps the second value. -/
theorem writeAt_writeAt {α : Type} {n : Nat} (buf : Vector α n) (i : Fin n) (v w : α) :
    writeAt (writeAt buf i v) i w = writeAt buf i w := by
  ext k hk
  simp only [getElem_writeAt]
  split <;> rfl

/-- Two writes at different positions commute. -/
theorem writeAt_comm {α : Type} {n : Nat} (buf : Vector α n) (i j : Fin n) (v w : α) (h : i ≠ j) :
    writeAt (writeAt buf i v) j w = writeAt (writeAt buf j w) i v := by
  ext k hk
  simp only [getElem_writeAt]
  have : i.val ≠ j.val := fun e => h (Fin.ext e)
  split_ifs <;> first | rfl | omega

/-- Reading one PS_BUF position after the two characters of a segment are written (R72). -/
theorem getElem_writeSegment (seg : BitVec 2) (x y : Byte) (buf : Vector Byte 8) (k : Nat) (h : k < 8) :
    (writeAt (writeAt buf (psIndex seg 0) x) (psIndex seg 1) y)[k] =
      if k = 2 * seg.toNat then x
      else if k = 2 * seg.toNat + 1 then y
      else buf[k] := by
  have e0 : (psIndex seg 0).val = 2 * seg.toNat := rfl
  have e1 : (psIndex seg 1).val = 2 * seg.toNat + 1 := rfl
  rw [getElem_writeAt, getElem_writeAt, e0, e1]
  split_ifs <;> first | rfl | omega

/-- Reading one PS_SEEN bit after a segment's bit is set (R37). -/
theorem getElem_setSegment (seg : BitVec 2) (seen : Vector Bool 4) (k : Nat) (h : k < 4) :
    (writeAt seen (segIndex seg) true)[k] = if k = seg.toNat then true else seen[k] := by
  have e : (segIndex seg).val = seg.toNat := rfl
  rw [getElem_writeAt, e]
  split_ifs <;> first | rfl | omega

/-- Reading one RT_SEEN bit after a slot's bit is set (R39). -/
theorem getElem_setSlot (slot : BitVec 4) (seen : Vector Bool 16) (k : Nat) (h : k < 16) :
    (writeAt seen (slotIndex slot) true)[k] = if k = slot.toNat then true else seen[k] := by
  have e : (slotIndex slot).val = slot.toNat := rfl
  rw [getElem_writeAt, e]
  split_ifs <;> first | rfl | omega

/-- Reading one position after a version A slot is written (R73). -/
theorem getElem_writeSlotA (slot : BitVec 4) (t0 t1 t2 t3 : Byte) (buf : Vector Byte 64) (k : Nat) (h : k < 64) :
    (writeSlotA slot t0 t1 t2 t3 buf)[k] =
      if k = 4 * slot.toNat then subst t0
      else if k = 4 * slot.toNat + 1 then subst t1
      else if k = 4 * slot.toNat + 2 then subst t2
      else if k = 4 * slot.toNat + 3 then subst t3
      else buf[k] := by
  have e0 : (rtIndexA slot 0).val = 4 * slot.toNat := rfl
  have e1 : (rtIndexA slot 1).val = 4 * slot.toNat + 1 := rfl
  have e2 : (rtIndexA slot 2).val = 4 * slot.toNat + 2 := rfl
  have e3 : (rtIndexA slot 3).val = 4 * slot.toNat + 3 := rfl
  rw [writeSlotA, getElem_writeAt, getElem_writeAt, getElem_writeAt, getElem_writeAt, e0, e1, e2, e3]
  split_ifs <;> first | rfl | omega

/-- Reading one position after a version B slot is written (R73). -/
theorem getElem_writeSlotB (slot : BitVec 4) (t0 t1 : Byte) (buf : Vector Byte 64) (k : Nat) (h : k < 64) :
    (writeSlotB slot t0 t1 buf)[k] =
      if k = 2 * slot.toNat then subst t0
      else if k = 2 * slot.toNat + 1 then subst t1
      else buf[k] := by
  have e0 : (rtIndexB slot 0).val = 2 * slot.toNat := rfl
  have e1 : (rtIndexB slot 1).val = 2 * slot.toNat + 1 := rfl
  rw [writeSlotB, getElem_writeAt, getElem_writeAt, e0, e1]
  split_ifs <;> first | rfl | omega

/-! ### Completing a command -/

/-- A command without output answers a next state, and this one only. -/
@[simp] theorem complete_eq_next (s t : State) (i : StationInfo) :
    s.complete i = .next t ↔ t = { s with info := i } := by
  simp only [State.complete, Host.Outcome.next.injEq]
  exact eq_comm

/-- A command with one output record answers a next state, and this one only. -/
@[simp] theorem completeWith_eq_next (s t : State) (i : StationInfo) (o : Output) :
    s.completeWith i o = .next t ↔ t = { s with info := i, outputs := s.outputs ++ [o] } := by
  simp only [State.completeWith, Host.Outcome.next.injEq]
  exact eq_comm

@[simp] theorem countCompleted_next (s : State) :
    countCompleted (.next s) = .next { s with pos := s.pos + 1 } := rfl

/-! ### The command stream -/

/-- The command port offers nothing exactly when no request is pending. -/
theorem fetch_idle {s : State} (h : s.pending = []) : s.fetch = .idle := by
  simp only [State.fetch, h]

/-- The next request is one command: it is taken. -/
theorem fetch_issue {s : State} {w : CommandWord} {rest : List HostRequest} (h : s.pending = .issue w :: rest) :
    s.fetch = .command w { s with pending := rest } := by
  simp only [State.fetch, h]

/-- The next request is an overlapping pair. -/
theorem fetch_overlap {s : State} {v w : CommandWord} {rest : List HostRequest}
    (h : s.pending = .overlap v w :: rest) : s.fetch = .overlapping := by
  simp only [State.fetch, h]

end Sys2Proof.Machine
end

