-- ==== Sys2Proof/Laws/PerInstr.lean ====
section
/-!
SUPPORT. The per-instruction family RowFormat: an instruction is encoded in the CMD format of the opcode table exactly
when its row there is a CMD row (R101), and in the GROUP format otherwise.
-/

namespace Sys2Proof.Laws.RowFormat

/-- The mnemonics of the CMD rows of spec/opcode_table.json. -/
def cmdMnemonics : List String := ["DECODE", "RESET", "QUERY", "CMDNOP"]

/-- The instruction's words have the format of its row. -/
def Statement (i : Instr) : Prop := (∃ w, encode i = .command w) ↔ i.mnemonic ∈ cmdMnemonics

theorem decode (a b c d : Word) : Statement (.decode a b c d) :=
  ⟨fun _ => by simp [Instr.mnemonic, cmdMnemonics], fun _ => ⟨_, rfl⟩⟩
theorem reset : Statement .reset := ⟨fun _ => by simp [Instr.mnemonic, cmdMnemonics], fun _ => ⟨_, rfl⟩⟩
theorem query : Statement .query := ⟨fun _ => by simp [Instr.mnemonic, cmdMnemonics], fun _ => ⟨_, rfl⟩⟩
theorem cmdnop : Statement .cmdnop := ⟨fun _ => by simp [Instr.mnemonic, cmdMnemonics], fun _ => ⟨_, rfl⟩⟩
theorem grp0a (pi : Word) (tp : Bool) (pty : BitVec 5) (ta ms : Bool) (seg : BitVec 2) (af1 af2 ch0 ch1 : Byte) :
    Statement (.grp0a pi tp pty ta ms seg af1 af2 ch0 ch1) := by
  simp [Statement, encode, Instr.mnemonic, cmdMnemonics]
theorem grp0b (pi : Word) (tp : Bool) (pty : BitVec 5) (ta ms : Bool) (seg : BitVec 2) (ch0 ch1 : Byte) :
    Statement (.grp0b pi tp pty ta ms seg ch0 ch1) := by
  simp [Statement, encode, Instr.mnemonic, cmdMnemonics]
theorem grp1a (pi pin slc : Word) : Statement (.grp1a pi pin slc) := by
  simp [Statement, encode, Instr.mnemonic, cmdMnemonics]
theorem grp1b (pi : Word) : Statement (.grp1b pi) := by
  simp [Statement, encode, Instr.mnemonic, cmdMnemonics]
theorem grp2a (pi : Word) (ab : Bool) (slot : BitVec 4) (t0 t1 t2 t3 : Byte) :
    Statement (.grp2a pi ab slot t0 t1 t2 t3) := by
  simp [Statement, encode, Instr.mnemonic, cmdMnemonics]
theorem grp2b (pi : Word) (ab : Bool) (slot : BitVec 4) (t0 t1 : Byte) : Statement (.grp2b pi ab slot t0 t1) := by
  simp [Statement, encode, Instr.mnemonic, cmdMnemonics]
theorem grp4a (pi : Word) (mjd : BitVec 17) (hour : BitVec 5) (minute : BitVec 6) (ofsSign : Bool)
    (ofsHalf : BitVec 5) : Statement (.grp4a pi mjd hour minute ofsSign ofsHalf) := by
  simp [Statement, encode, Instr.mnemonic, cmdMnemonics]
theorem grp4b (pi : Word) : Statement (.grp4b pi) := by
  simp [Statement, encode, Instr.mnemonic, cmdMnemonics]
theorem grpnop (gt : BitVec 4) : Statement (.grpnop gt) := by
  simp [Statement, encode, Instr.mnemonic, cmdMnemonics]

end Sys2Proof.Laws.RowFormat
end

