-- ==== Sys2Proof/Laws/State.lean ====
section
/-!
SUPPORT. One lemma for each field of each update of the state and of the registers, true by `rfl`, so that no later proof
unfolds a record update.
-/

namespace Sys2Proof.Machine

/-! ### Issuing and taking a request -/

@[simp] theorem issueFirst_params (s : State) (w : CommandWord) : (s.issueFirst w).params = s.params := rfl
@[simp] theorem issueFirst_info (s : State) (w : CommandWord) : (s.issueFirst w).info = s.info := rfl
@[simp] theorem issueFirst_pos (s : State) (w : CommandWord) : (s.issueFirst w).pos = s.pos := rfl
@[simp] theorem issueFirst_pending (s : State) (w : CommandWord) :
    (s.issueFirst w).pending = .issue w :: s.pending := rfl
@[simp] theorem issueFirst_outputs (s : State) (w : CommandWord) : (s.issueFirst w).outputs = s.outputs := rfl

/-! ### The PI latch -/

@[simp] theorem latchPi_pi (on : Bool) (a : Word) (i : StationInfo) : (latchPi on a i).pi = if on then a else i.pi := rfl
@[simp] theorem latchPi_pty (on : Bool) (a : Word) (i : StationInfo) : (latchPi on a i).pty = i.pty := rfl
@[simp] theorem latchPi_tp (on : Bool) (a : Word) (i : StationInfo) : (latchPi on a i).tp = i.tp := rfl
@[simp] theorem latchPi_ta (on : Bool) (a : Word) (i : StationInfo) : (latchPi on a i).ta = i.ta := rfl
@[simp] theorem latchPi_ms (on : Bool) (a : Word) (i : StationInfo) : (latchPi on a i).ms = i.ms := rfl
@[simp] theorem latchPi_psBuf (on : Bool) (a : Word) (i : StationInfo) : (latchPi on a i).psBuf = i.psBuf := rfl
@[simp] theorem latchPi_psSeen (on : Bool) (a : Word) (i : StationInfo) : (latchPi on a i).psSeen = i.psSeen := rfl
@[simp] theorem latchPi_rtBuf (on : Bool) (a : Word) (i : StationInfo) : (latchPi on a i).rtBuf = i.rtBuf := rfl
@[simp] theorem latchPi_rtSeen (on : Bool) (a : Word) (i : StationInfo) : (latchPi on a i).rtSeen = i.rtSeen := rfl
@[simp] theorem latchPi_rtAb (on : Bool) (a : Word) (i : StationInfo) : (latchPi on a i).rtAb = i.rtAb := rfl
@[simp] theorem latchPi_rtVer (on : Bool) (a : Word) (i : StationInfo) : (latchPi on a i).rtVer = i.rtVer := rfl
@[simp] theorem latchPi_clkValid (on : Bool) (a : Word) (i : StationInfo) : (latchPi on a i).clkValid = i.clkValid := rfl
@[simp] theorem latchPi_clk (on : Bool) (a : Word) (i : StationInfo) : (latchPi on a i).clk = i.clk := rfl

/-! ### The text clear and the toggle -/

@[simp] theorem rtClear_pi (i : StationInfo) : (rtClear i).pi = i.pi := rfl
@[simp] theorem rtClear_pty (i : StationInfo) : (rtClear i).pty = i.pty := rfl
@[simp] theorem rtClear_tp (i : StationInfo) : (rtClear i).tp = i.tp := rfl
@[simp] theorem rtClear_ta (i : StationInfo) : (rtClear i).ta = i.ta := rfl
@[simp] theorem rtClear_ms (i : StationInfo) : (rtClear i).ms = i.ms := rfl
@[simp] theorem rtClear_psBuf (i : StationInfo) : (rtClear i).psBuf = i.psBuf := rfl
@[simp] theorem rtClear_psSeen (i : StationInfo) : (rtClear i).psSeen = i.psSeen := rfl
@[simp] theorem rtClear_rtBuf (i : StationInfo) : (rtClear i).rtBuf = Vector.replicate 64 0x20#8 := rfl
@[simp] theorem rtClear_rtSeen (i : StationInfo) : (rtClear i).rtSeen = Vector.replicate 16 false := rfl
@[simp] theorem rtClear_rtAb (i : StationInfo) : (rtClear i).rtAb = i.rtAb := rfl
@[simp] theorem rtClear_rtVer (i : StationInfo) : (rtClear i).rtVer = i.rtVer := rfl
@[simp] theorem rtClear_clkValid (i : StationInfo) : (rtClear i).clkValid = i.clkValid := rfl
@[simp] theorem rtClear_clk (i : StationInfo) : (rtClear i).clk = i.clk := rfl

/-- What AbToggle does to the registers, in one equation (R190). -/
theorem abToggle_eq (ab : Bool) (i : StationInfo) :
    abToggle ab i = { i with
      rtBuf := bif abDiffers i.rtAb ab then Vector.replicate 64 0x20#8 else i.rtBuf
      rtSeen := bif abDiffers i.rtAb ab then Vector.replicate 16 false else i.rtSeen
      rtAb := some ab } := by
  unfold abToggle
  cases abDiffers i.rtAb ab <;> rfl

@[simp] theorem abToggle_pi (ab : Bool) (i : StationInfo) : (abToggle ab i).pi = i.pi := by rw [abToggle_eq]
@[simp] theorem abToggle_pty (ab : Bool) (i : StationInfo) : (abToggle ab i).pty = i.pty := by rw [abToggle_eq]
@[simp] theorem abToggle_tp (ab : Bool) (i : StationInfo) : (abToggle ab i).tp = i.tp := by rw [abToggle_eq]
@[simp] theorem abToggle_ta (ab : Bool) (i : StationInfo) : (abToggle ab i).ta = i.ta := by rw [abToggle_eq]
@[simp] theorem abToggle_ms (ab : Bool) (i : StationInfo) : (abToggle ab i).ms = i.ms := by rw [abToggle_eq]
@[simp] theorem abToggle_psBuf (ab : Bool) (i : StationInfo) : (abToggle ab i).psBuf = i.psBuf := by rw [abToggle_eq]
@[simp] theorem abToggle_psSeen (ab : Bool) (i : StationInfo) : (abToggle ab i).psSeen = i.psSeen := by rw [abToggle_eq]
@[simp] theorem abToggle_rtBuf (ab : Bool) (i : StationInfo) : (abToggle ab i).rtBuf =
    bif abDiffers i.rtAb ab then Vector.replicate 64 0x20#8 else i.rtBuf := by rw [abToggle_eq]
@[simp] theorem abToggle_rtSeen (ab : Bool) (i : StationInfo) : (abToggle ab i).rtSeen =
    bif abDiffers i.rtAb ab then Vector.replicate 16 false else i.rtSeen := by rw [abToggle_eq]
@[simp] theorem abToggle_rtAb (ab : Bool) (i : StationInfo) : (abToggle ab i).rtAb = some ab := rfl
@[simp] theorem abToggle_rtVer (ab : Bool) (i : StationInfo) : (abToggle ab i).rtVer = i.rtVer := by rw [abToggle_eq]
@[simp] theorem abToggle_clkValid (ab : Bool) (i : StationInfo) : (abToggle ab i).clkValid = i.clkValid := by
  rw [abToggle_eq]
@[simp] theorem abToggle_clk (ab : Bool) (i : StationInfo) : (abToggle ab i).clk = i.clk := by rw [abToggle_eq]

/-! ### The registers after a group 0 -/

section Group0
variable (p : Params) (pi : Word) (tp : Bool) (pty : BitVec 5) (ta ms : Bool) (seg : BitVec 2) (ch0 ch1 : Byte)
  (i : StationInfo)

@[simp] theorem group0Common_pi :
    (group0Common p pi tp pty ta ms seg ch0 ch1 i).pi = if p.piLatch.g0 then pi else i.pi := rfl
@[simp] theorem group0Common_pty : (group0Common p pi tp pty ta ms seg ch0 ch1 i).pty = pty := rfl
@[simp] theorem group0Common_tp : (group0Common p pi tp pty ta ms seg ch0 ch1 i).tp = tp := rfl
@[simp] theorem group0Common_ta : (group0Common p pi tp pty ta ms seg ch0 ch1 i).ta = ta := rfl
@[simp] theorem group0Common_ms : (group0Common p pi tp pty ta ms seg ch0 ch1 i).ms = ms := rfl
@[simp] theorem group0Common_psBuf : (group0Common p pi tp pty ta ms seg ch0 ch1 i).psBuf =
    writeAt (writeAt i.psBuf (psIndex seg 0) (subst ch0)) (psIndex seg 1) (subst ch1) := rfl
@[simp] theorem group0Common_psSeen :
    (group0Common p pi tp pty ta ms seg ch0 ch1 i).psSeen = writeAt i.psSeen (segIndex seg) true := rfl
@[simp] theorem group0Common_rtBuf : (group0Common p pi tp pty ta ms seg ch0 ch1 i).rtBuf = i.rtBuf := rfl
@[simp] theorem group0Common_rtSeen : (group0Common p pi tp pty ta ms seg ch0 ch1 i).rtSeen = i.rtSeen := rfl
@[simp] theorem group0Common_rtAb : (group0Common p pi tp pty ta ms seg ch0 ch1 i).rtAb = i.rtAb := rfl
@[simp] theorem group0Common_rtVer : (group0Common p pi tp pty ta ms seg ch0 ch1 i).rtVer = i.rtVer := rfl
@[simp] theorem group0Common_clkValid : (group0Common p pi tp pty ta ms seg ch0 ch1 i).clkValid = i.clkValid := rfl
@[simp] theorem group0Common_clk : (group0Common p pi tp pty ta ms seg ch0 ch1 i).clk = i.clk := rfl

end Group0

/-! ### The registers after a group 2 -/

section Group2
variable (p : Params) (pi : Word) (ab : Bool) (slot : BitVec 4) (t0 t1 t2 t3 : Byte) (i : StationInfo)

@[simp] theorem group2aInfo_pi :
    (group2aInfo p pi ab slot t0 t1 t2 t3 i).pi = if p.piLatch.g2 then pi else i.pi := by simp [group2aInfo]
@[simp] theorem group2aInfo_pty : (group2aInfo p pi ab slot t0 t1 t2 t3 i).pty = i.pty := by simp [group2aInfo]
@[simp] theorem group2aInfo_tp : (group2aInfo p pi ab slot t0 t1 t2 t3 i).tp = i.tp := by simp [group2aInfo]
@[simp] theorem group2aInfo_ta : (group2aInfo p pi ab slot t0 t1 t2 t3 i).ta = i.ta := by simp [group2aInfo]
@[simp] theorem group2aInfo_ms : (group2aInfo p pi ab slot t0 t1 t2 t3 i).ms = i.ms := by simp [group2aInfo]
@[simp] theorem group2aInfo_psBuf : (group2aInfo p pi ab slot t0 t1 t2 t3 i).psBuf = i.psBuf := by simp [group2aInfo]
@[simp] theorem group2aInfo_psSeen : (group2aInfo p pi ab slot t0 t1 t2 t3 i).psSeen = i.psSeen := by simp [group2aInfo]
@[simp] theorem group2aInfo_rtBuf : (group2aInfo p pi ab slot t0 t1 t2 t3 i).rtBuf =
    writeSlotA slot t0 t1 t2 t3 (bif abDiffers i.rtAb ab then Vector.replicate 64 0x20#8 else i.rtBuf) := by
  simp [group2aInfo]
@[simp] theorem group2aInfo_rtSeen : (group2aInfo p pi ab slot t0 t1 t2 t3 i).rtSeen =
    writeAt (bif abDiffers i.rtAb ab then Vector.replicate 16 false else i.rtSeen) (slotIndex slot) true := by
  simp [group2aInfo]
@[simp] theorem group2aInfo_rtAb : (group2aInfo p pi ab slot t0 t1 t2 t3 i).rtAb = some ab := rfl
@[simp] theorem group2aInfo_rtVer : (group2aInfo p pi ab slot t0 t1 t2 t3 i).rtVer = some .a := rfl
@[simp] theorem group2aInfo_clkValid : (group2aInfo p pi ab slot t0 t1 t2 t3 i).clkValid = i.clkValid := by
  simp [group2aInfo]
@[simp] theorem group2aInfo_clk : (group2aInfo p pi ab slot t0 t1 t2 t3 i).clk = i.clk := by simp [group2aInfo]

@[simp] theorem group2bInfo_pi :
    (group2bInfo p pi ab slot t0 t1 i).pi = if p.piLatch.g2 then pi else i.pi := by simp [group2bInfo]
@[simp] theorem group2bInfo_pty : (group2bInfo p pi ab slot t0 t1 i).pty = i.pty := by simp [group2bInfo]
@[simp] theorem group2bInfo_tp : (group2bInfo p pi ab slot t0 t1 i).tp = i.tp := by simp [group2bInfo]
@[simp] theorem group2bInfo_ta : (group2bInfo p pi ab slot t0 t1 i).ta = i.ta := by simp [group2bInfo]
@[simp] theorem group2bInfo_ms : (group2bInfo p pi ab slot t0 t1 i).ms = i.ms := by simp [group2bInfo]
@[simp] theorem group2bInfo_psBuf : (group2bInfo p pi ab slot t0 t1 i).psBuf = i.psBuf := by simp [group2bInfo]
@[simp] theorem group2bInfo_psSeen : (group2bInfo p pi ab slot t0 t1 i).psSeen = i.psSeen := by simp [group2bInfo]
@[simp] theorem group2bInfo_rtBuf : (group2bInfo p pi ab slot t0 t1 i).rtBuf =
    writeSlotB slot t0 t1 (bif abDiffers i.rtAb ab then Vector.replicate 64 0x20#8 else i.rtBuf) := by
  simp [group2bInfo]
@[simp] theorem group2bInfo_rtSeen : (group2bInfo p pi ab slot t0 t1 i).rtSeen =
    writeAt (bif abDiffers i.rtAb ab then Vector.replicate 16 false else i.rtSeen) (slotIndex slot) true := by
  simp [group2bInfo]
@[simp] theorem group2bInfo_rtAb : (group2bInfo p pi ab slot t0 t1 i).rtAb = some ab := rfl
@[simp] theorem group2bInfo_rtVer : (group2bInfo p pi ab slot t0 t1 i).rtVer = some .b := rfl
@[simp] theorem group2bInfo_clkValid : (group2bInfo p pi ab slot t0 t1 i).clkValid = i.clkValid := by simp [group2bInfo]
@[simp] theorem group2bInfo_clk : (group2bInfo p pi ab slot t0 t1 i).clk = i.clk := by simp [group2bInfo]

end Group2

end Sys2Proof.Machine
end

