-- ==== Sys2Proof/Tests/Slice0.lean ====
section
/-!
SUPPORT. The model's own tests: the WellFormed smoke test, words written out from the layouts of R93 to R96 and R101,
one step at a time on the vectors of 95_test_vectors.md, and for each statement with hypotheses a witness that meets
them. Expected values come from the spec's examples and vectors.
-/

namespace Sys2Proof.Tests

open Sys2Proof Sys2Proof.Machine Sys2Proof.Claims

/-! ### WellFormed: GRPNOP with a supported group type is refused -/

theorem test_grpnop_of_type_0_ill_formed : (Instr.grpnop 0#4).wellFormed = false := by decide
theorem test_grpnop_of_type_1_ill_formed : (Instr.grpnop 1#4).wellFormed = false := by decide
theorem test_grpnop_of_type_2_ill_formed : (Instr.grpnop 2#4).wellFormed = false := by decide
theorem test_grpnop_of_type_4_ill_formed : (Instr.grpnop 4#4).wellFormed = false := by decide

/-! ### Decoding words written out from the spec's layouts -/

/-- A group of four words decodes to this instruction. -/
abbrev Reads (a b c d : Word) (i : Instr) : Prop := decode (.group ⟨a, b, c, d⟩) = i

/-- A command field decodes to this instruction. -/
abbrev ReadsCommand (cmd : BitVec 2) (i : Instr) : Prop := decode (.command ⟨cmd, ⟨0x8201, 0x054A, 0x01CC, 0x4520⟩⟩) = i

/-- R101: CMD 00, with the four operand words. -/
theorem test_decode_word_decode : ReadsCommand 0b00#2 (.decode 0x8201 0x054A 0x01CC 0x4520) := by decide
/-- R101: CMD 01; the operand words are ignored. -/
theorem test_decode_word_reset : ReadsCommand 0b01#2 .reset := by decide
/-- R101: CMD 10. -/
theorem test_decode_word_query : ReadsCommand 0b10#2 .query := by decide
/-- R101: CMD 11. -/
theorem test_decode_word_cmdnop : ReadsCommand 0b11#2 .cmdnop := by decide
/-- R93: GT 0000, VER 0, TP 1, PTY 01010, TA 0, MS 1, ignored 0, SEG 10 (the example of R151). -/
theorem test_decode_word_grp0a : Reads 0x8201 0b0000010101001010#16 0b0000000111001100#16 0b0100010100100000#16
    (.grp0a 0x8201 true 10 false true 2 1 204 0x45 0x20) := by decide
/-- R93: GT 0000, VER 1, TP 1, PTY 01010, TA 0, MS 0, ignored 1, SEG 01. -/
theorem test_decode_word_grp0b : Reads 0x8201 0b0000110101000101#16 0x8201 0b0100100100000001#16
    (.grp0b 0x8201 true 10 false false 1 0x49 0x01) := by decide
/-- R94: GT 0001, VER 0, ten ignored bits set. -/
theorem test_decode_word_grp1a : Reads 0x8201 0b0001011111111111#16 0x1234 0xABCD (.grp1a 0x8201 0x1234 0xABCD) := by decide
/-- R94: GT 0001, VER 1. -/
theorem test_decode_word_grp1b : Reads 0x8201 0b0001100000000000#16 0x1234 0xABCD (.grp1b 0x8201) := by decide
/-- R95: GT 0010, VER 0, ignored 000000, AB 0, SLOT 0111 (the example of R191). -/
theorem test_decode_word_grp2a : Reads 0x8201 0b0010000000000111#16 0x3234 0x2F37
    (.grp2a 0x8201 false 7 0x32 0x34 0x2F 0x37) := by decide
/-- R95: GT 0010, VER 1, ignored 111111, AB 1, SLOT 1111; word C ignored. -/
theorem test_decode_word_grp2b : Reads 0x8201 0b0010111111111111#16 0xFFFF 0x5245 (.grp2b 0x8201 true 15 0x52 0x45) := by
  decide
/-- R96: GT 0100, VER 0, MJD[16:15] 01; C = 110101110100100 0; D = 1100 000000 0 00010 (vector S6). -/
theorem test_decode_word_grp4a : Reads 0x8201 0b0100000000000001#16 0b1101011101001000#16 0b1100000000000010#16
    (.grp4a 0x8201 60324 12 0 false 2) := by decide
/-- R96: GT 0100, VER 1. -/
theorem test_decode_word_grp4b : Reads 0x1234 0b0100100000000001#16 0xD748 0xC002 (.grp4b 0x1234) := by decide
/-- R124: GT 0011 and GT 1111, VER 1. -/
theorem test_decode_word_grpnop : Reads 0x1234 0b0011000000000000#16 0xFFFF 0xFFFF (.grpnop 3) ∧
    Reads 0x8201 0b1111100000000000#16 0 0 (.grpnop 15) := by decide
/-- The bits of a CMD row and of a GROUP row of the opcode table, and bits that fit neither. -/
theorem test_decode_table_words : decodeTableWord 8 2 = some .query ∧ decodeTableWord 16 0x4800 = some (.grp4b 0) ∧
    decodeTableWord 8 4 = none := by decide

/-! ### One step at a time -/

/-- The state after an outcome, if it is a next state. -/
def after (o : Host.Outcome State Fault Refusal) : Option State :=
  match o with
  | .next s => some s
  | .fault _ => none
  | .refused _ => none

/-- The registers after an instruction. -/
def infoOf (i : Instr) (s : State) : Option StationInfo := (after (exec i s)).map (·.info)

/-- The records an instruction adds to those output before. -/
def outOf (i : Instr) (s : State) : Option (List Output) := (after (exec i s)).map (fun t => t.outputs.drop s.outputs.length)

/-- The result an instruction outputs. -/
def resultOfStep (i : Instr) (s : State) : Option DecodedFields :=
  match outOf i s with
  | some [.result r] => some r
  | _ => none

/-- A state with these registers, nothing pending and nothing output. -/
def at0 (i : StationInfo) : State := { State.reset with info := i }

/-- The codes of "PR??E FM" with segment 1 missing (program P1 before its group 4). -/
def nameMissing1 : StationInfo :=
  { StationInfo.reset with
    psBuf := #v[0x50, 0x52, 0x20, 0x20, 0x45, 0x20, 0x46, 0x4D]
    psSeen := #v[true, false, true, true] }

/-- "PRIDE FM", complete (program P1 after its group 4). -/
def nameComplete : StationInfo :=
  { StationInfo.reset with
    psBuf := #v[0x50, 0x52, 0x49, 0x44, 0x45, 0x20, 0x46, 0x4D]
    psSeen := Vector.replicate 4 true }

/-- "HI THE", three slots of a 2B text (program P4 before its group 4). -/
def textThree : StationInfo :=
  { StationInfo.reset with
    rtBuf := (#v[0x48, 0x49, 0x20, 0x54, 0x48, 0x45] : Vector Byte 6) ++ (Vector.replicate 58 0x20#8 : Vector Byte 58)
    rtSeen := (Vector.replicate 3 true : Vector Bool 3) ++ (Vector.replicate 13 false : Vector Bool 13)
    rtAb := some false
    rtVer := some .b }

/-- "ABCDEFGH", two slots of a 2A text with flag 1 (vector T5). -/
def textTwo : StationInfo :=
  { StationInfo.reset with
    rtBuf := (#v[0x41, 0x42, 0x43, 0x44, 0x45, 0x46, 0x47, 0x48] : Vector Byte 8) ++
      (Vector.replicate 56 0x20#8 : Vector Byte 56)
    rtSeen := (Vector.replicate 2 true : Vector Bool 2) ++ (Vector.replicate 14 false : Vector Bool 14)
    rtAb := some true
    rtVer := some .a }

/-- A clock of 2024-01-15 12:00 +1.0 (vector S6). -/
def clock2024 : ClockRec :=
  { mjd := 60324, year := 2024, month := 1, day := 15, hour := 12, minute := 0, ofsSign := false, ofsHalf := 2 }

/-- 40_dispatcher.md, example of R120: an unsupported type returns EMPTY and leaves the state. -/
theorem test_decode_unsupported : infoOf (.decode 0x1234 0x3000 0xFFFF 0xFFFF) (at0 nameComplete) = some nameComplete ∧
    resultOfStep (.decode 0x1234 0x3000 0xFFFF 0xFFFF) (at0 nameComplete) = some .empty := by decide

/-- Section 2.1: DECODE of b = 1000 runs GRP1A. -/
theorem test_decode_dispatches : resultOfStep (.decode 0x1234 0x1000 0 0) State.reset =
    some { DecodedFields.empty with pi := some 0x1234, pin := some 0, slc := some 0 } := by decide

/-- Program P1, line 4: the fourth segment completes "PRIDE FM"; code 255 is dropped. -/
theorem test_grp0a_completes_name : resultOfStep (.grp0a 0x8201 true 10 false false 1 0x00 0xFF 0x49 0x44) (at0 nameMissing1) =
    some { DecodedFields.empty with
      pi := some 0x8201, pty := some 10, tp := some true, ta := some false, ms := some false
      af := some [], ps := some [0x50, 0x52, 0x49, 0x44, 0x45, 0x20, 0x46, 0x4D] } := by decide

/-- Section 2.3, first row, and the example of R151: codes 1 and 204 are 87.5 and 107.8 MHz. -/
theorem test_grp0a_af_and_seen : (resultOfStep (.grp0a 0x8201 true 10 false true 2 1 204 0x45 0x20) State.reset).map (·.af) =
      some (some [⟨1, 875⟩, ⟨204, 1078⟩]) ∧
    (infoOf (.grp0a 0xFFFF true 31 true true 3 255 255 0xFF 0xFF) State.reset).map (fun i => (i.psSeen, i.psBuf)) =
      some (#v[false, false, false, true], #v[0x20, 0x20, 0x20, 0x20, 0x20, 0x20, 0xFF, 0xFF]) := by decide

/-- Program P1, line 5: 0x01 is stored as a space, and af is absent. -/
theorem test_grp0b_substitutes : resultOfStep (.grp0b 0x8201 true 10 false false 1 0x49 0x01) (at0 nameComplete) =
    some { DecodedFields.empty with
      pi := some 0x8201, pty := some 10, tp := some true, ta := some false, ms := some false
      ps := some [0x50, 0x52, 0x49, 0x20, 0x45, 0x20, 0x46, 0x4D] } := by decide

/-- Section 2.3: a name of leading space keeps it under TRAILING and loses it under BOTH. -/
theorem test_name_trim_parameter : nameTrimOf .trailing [0x20, 0x52, 0x31, 0x20] = [0x20, 0x52, 0x31] ∧
    nameTrimOf .both [0x20, 0x52, 0x31, 0x20] = [0x52, 0x31] := by decide

/-- Section 2.4. -/
theorem test_grp1a_reports_raw : resultOfStep (.grp1a 0x8201 0x1234 0xABCD) State.reset =
    some { DecodedFields.empty with pi := some 0x8201, pin := some 0x1234, slc := some 0xABCD } := by decide

/-- Section 2.4: PI is latched under the default, and not when group 1 is not in PI_LATCH_GROUPS. -/
theorem test_grp1b_latches_pi : (infoOf (.grp1b 0x8201) State.reset).map (·.pi) = some 0x8201 ∧
    (infoOf (.grp1b 0x8201) { State.reset with params := { Params.default with piLatch := ⟨true, false, false, false⟩ } }).map
      (·.pi) = some 0 := by decide

/-- Vector T6: the flip clears the text first; only the slot just written is left. -/
theorem test_grp2a_flip_clears : (infoOf (.grp2a 0x0001 false 2 0x49 0x4A 0x4B 0x4C) (at0 textTwo)).map
    (fun i => (i.rtBuf.toList.take 13, i.rtSeen.toList.take 4, i.rtAb)) =
    some ([0x20, 0x20, 0x20, 0x20, 0x20, 0x20, 0x20, 0x20, 0x49, 0x4A, 0x4B, 0x4C, 0x20], [false, false, true, false],
      some false) := by decide

/-- Section 2.5, T8 and program P4, line 7: the 2A slot 8 lies at 32..35 and the text is not ready. -/
theorem test_grp2a_slot_8 : (infoOf (.grp2a 0x8201 false 8 0x41 0x42 0x43 0x44) (at0 textThree)).map
      (fun i => (i.rtBuf.toList.drop 31).take 6) = some [0x20, 0x41, 0x42, 0x43, 0x44, 0x20] ∧
    resultOfStep (.grp2a 0x8201 false 8 0x41 0x42 0x43 0x44) (at0 textThree) = some .empty := by decide

/-- Program P4, line 4: four of eight slots report "HI THERE". -/
theorem test_grp2b_reports_from_half : resultOfStep (.grp2b 0x8201 false 3 0x52 0x45) (at0 textThree) =
    some { DecodedFields.empty with rt := some [0x48, 0x49, 0x20, 0x54, 0x48, 0x45, 0x52, 0x45] } := by decide

/-- Vector T3: a 2B slot past 7 is written and marked and does not count under PREFIX; it does under ALL. -/
theorem test_grp2b_window : resultOfStep (.grp2b 0x8201 false 11 0x41 0x42) (at0 textThree) = some .empty ∧
    (resultOfStep (.grp2b 0x8201 false 11 0x41 0x42)
      { at0 textThree with params := { Params.default with rtCountWindow := .allSlots } }).map (fun r => r.rt.isSome) =
      some true := by decide

/-- Vector S6. -/
theorem test_grp4a_known_date : resultOfStep (.grp4a 0x8201 60324 12 0 false 2) State.reset =
    some { DecodedFields.empty with pi := some 0x8201, clock := some clock2024 } := by decide +kernel

/-- Vector S5: MJD 0 leaves the clock, whatever the hour and the offset. -/
theorem test_grp4a_zero_mjd : resultOfStep (.grp4a 0x1234 0 28 0 false 2) State.reset =
      some { DecodedFields.empty with pi := some 0x1234 } ∧
    (infoOf (.grp4a 0x1234 0 28 0 false 2) State.reset).map (·.clkValid) = some false := by decide

/-- Section 2.6, last row: a 4B changes no clock field. -/
theorem test_grp4b_no_clock : (infoOf (.grp4b 0x1234) (at0 { StationInfo.reset with clkValid := true, clk := clock2024 })).map
    (fun i => (i.pi, i.clkValid, i.clk)) = some (0x1234, true, clock2024) := by decide

/-- Section 2.1: GT 5 to 15 leave the state and return EMPTY. -/
theorem test_grpnop : infoOf (.grpnop 15) (at0 textTwo) = some textTwo ∧
    resultOfStep (.grpnop 15) (at0 textTwo) = some .empty := by decide

/-- Program P3, line 7: RESET returns to S0 and outputs nothing. -/
theorem test_reset : infoOf .reset (at0 textTwo) = some StationInfo.reset ∧ outOf .reset (at0 textTwo) = some [] := by decide

/-- Program P1, line 6: QUERY reports the complete name and changes nothing. -/
theorem test_query_name : (outOf .query (at0 nameComplete)).map (fun o => o.map (fun x =>
      match x with
      | .snapshot q => (q.ps, q.rt, q.clock)
      | .result _ => (none, none, none))) =
    some [(some [0x50, 0x52, 0x49, 0x44, 0x45, 0x20, 0x46, 0x4D], none, none)] ∧
    infoOf .query (at0 nameComplete) = some nameComplete := by decide

/-- Example of R262. -/
theorem test_cmdnop : infoOf .cmdnop (at0 nameComplete) = some nameComplete ∧
    outOf .cmdnop (at0 nameComplete) = some [] := by decide

/-- Section 2.2: which codes are substituted. -/
theorem test_subst : subst 0x0D = 0x20 ∧ subst 0x1F = 0x20 ∧ subst 0x20 = 0x20 ∧ subst 0x7F = 0x7F ∧ subst 0xFF = 0xFF := by
  decide

/-- Section 2.6: the presented strings of the first and the third row, and the examples of R153 and R240. -/
theorem test_presentation : dateString ⟨2024, 1, 15⟩ = ['2', '0', '2', '4', '-', '0', '1', '-', '1', '5'] ∧
    timeString 23 59 = ['2', '3', ':', '5', '9'] ∧ defaultOffsetFormat true 31 = ['-', '1', '5', '.', '5'] ∧
    defaultOffsetFormat true 0 = ['-', '0', '.', '0'] ∧ presentMhz ⟨204, 1078⟩ = ['1', '0', '7', '.', '8'] ∧
    hex4 .upper 0xABCD = ['A', 'B', 'C', 'D'] := by decide

/-- R102: the example line. -/
theorem test_line : parseLine ['D', 'E', 'C', 'O', 'D', 'E', ' ', '8', '2', '0', '1', ',', ' ', '0', '5', '4', 'A', ',', ' ',
    '0', '1', 'C', 'C', ',', ' ', '4', '5', '2', '0'] = some ⟨0, ⟨0x8201, 0x054A, 0x01CC, 0x4520⟩⟩ := by decide

/-- A whole step from reset: the command placed by `withFetchWord` runs, and one command is counted. -/
theorem test_step_from_reset : (after (step (State.reset.withFetchWord 16 0x3000))).map
    (fun t => (t.pos, t.pending, t.outputs, t.info)) =
    some (1, [], [.result .empty], StationInfo.reset) := by decide

/-! ### Witnesses: each statement's hypotheses are met -/

/-- The words of a group 2A with the flag 0, slot 2. -/
def flipWords : GroupWords := ⟨0x0001, 0x2002, 0x494A, 0x4B4C⟩

/-- One DECODE pending. -/
def onePending : State := (at0 textTwo).issueFirst ⟨0, flipWords⟩

/-- The four segments of " RADIO 1", in the order 2, 0, 3, 1. -/
def fourSegments : List GroupWords :=
  [⟨1, 0x0002, 0, 0x494F⟩, ⟨1, 0x0000, 0, 0x2052⟩, ⟨1, 0x0003, 0, 0x2031⟩, ⟨1, 0x0001, 0, 0x4144⟩]

theorem witness_DecodeOfEncodeIsIdentity : (Instr.grpnop 15).wellFormed = true ∧
    (Instr.grp2b 0xFFFF true 15 0xFF 0).wellFormed = true := by decide

theorem witness_IgnoredBitsHaveNoEffect :
    GroupWords.readBits ⟨1, 0x2800, 5, 7⟩ = GroupWords.readBits ⟨1, 0x2FE0, 9, 7⟩ := by decide

theorem witness_GroupZeroIgnoredBits : gtOf 0x0D45 = 0#4 ∧ verOf 0x0D45 = .b := by decide

theorem witness_CommandLinesReadBack : ∃ v w : CommandWord, v.cmd = 0 ∧ v.group ≠ .zero ∧ w.cmd ≠ 0 ∧ w.group = .zero :=
  ⟨⟨0, flipWords⟩, ⟨1, .zero⟩, by decide⟩

theorem witness_StepRunsTheDecodedCommand : onePending.pending = .issue ⟨0, flipWords⟩ :: [] := by decide

theorem witness_FetchWordRunsTheTableInstruction : decodeTableWord 8 1 = some .reset ∧
    decodeTableWord 16 0xF000 = some (.grpnop 15) := by decide

theorem witness_OverlappingPairIsRefused : ∃ s : State, s.pending = .overlap ⟨0, flipWords⟩ ⟨1, .zero⟩ :: [] :=
  ⟨{ State.reset with pending := [.overlap ⟨0, flipWords⟩ ⟨1, .zero⟩] }, rfl⟩

theorem witness_IdleStepChangesNothing : (at0 textTwo).pending = [] := rfl

theorem witness_PositionAdvancesByOnePerCommand : (∃ t, step onePending = .next t ∧ t ≠ onePending) ∧
    ∃ t, step (at0 textTwo) = .next t :=
  ⟨⟨_, rfl, by decide⟩, ⟨_, rfl⟩⟩

theorem witness_SerializedStreamRunsToItsEnd : onePending.serialized = true ∧ onePending.pending ≠ [] := by decide

theorem witness_ParametersNeverChange : ∃ t, step onePending = .next t := ⟨_, rfl⟩

theorem witness_UnsupportedGroupsAreNoOps : gtOf 0x3FFF ≠ 0#4 ∧ gtOf 0x3FFF ≠ 1#4 ∧ gtOf 0x3FFF ≠ 2#4 ∧
    gtOf 0x3FFF ≠ 4#4 := by decide

theorem witness_PiIsLatchedByListedGroups : ∃ t, exec (.decode 0x1234 0x2000 0 0) State.reset = .next t := ⟨_, rfl⟩

theorem witness_GroupZeroCommonPart : gtOf 0x054A = 0#4 ∧ gtOf 0x0D41 = 0#4 := by decide

/-- A flip in version A, no flip in version B, and no flag recorded yet. -/
theorem witness_ToggleClearsBeforeTheWrite : gtOf 0x2002 = 2#4 ∧ gtOf 0x2812 = 2#4 ∧
    NewMessage (at0 textTwo) (BitVec.getLsbD 0x2002#16 4) ∧ ¬ NewMessage (at0 textTwo) (BitVec.getLsbD 0x2812#16 4) ∧
    ¬ NewMessage State.reset (BitVec.getLsbD 0x2002#16 4) := by
  refine ⟨by decide, by decide, ⟨true, by decide, by decide⟩, ?_, ?_⟩
  · rintro ⟨x, hx, hn⟩
    cases hx
    exact hn (by decide)
  · rintro ⟨x, hx, -⟩
    cases hx

theorem witness_ControlCodesAreNeverStored : (∃ t, exec (.decode 0x0001 0x2002 0x494A 0x4B4C) (at0 textTwo) = .next t) ∧
    (31#8).toNat < 32 ∧ 32 ≤ (32#8).toNat ∧ gtOf 0x0D45 = 0#4 ∧ gtOf 0x2002 = 2#4 ∧ gtOf 0x2802 = 2#4 :=
  ⟨⟨_, rfl⟩, by decide, by decide, by decide, by decide, by decide⟩

theorem witness_DecodeIsIdempotent : ∃ t, exec (.decode 0x0001 0x2002 0x494A 0x4B4C) (at0 textTwo) = .next t := ⟨_, rfl⟩

theorem witness_NameIsReportedWhenComplete : nameReport Params.default nameComplete ≠ none ∧
    Params.default.nameTrim = .trailing ∧ nameReport { Params.default with nameTrim := .both } nameComplete ≠ none := by
  decide

theorem witness_NameIsOrderIndependent : (∀ g ∈ fourSegments, gtOf g.b = 0#4) ∧
    lastSegmentWord fourSegments 0#2 = some 0x2052 ∧ lastSegmentWord fourSegments 1#2 = some 0x4144 ∧
    lastSegmentWord fourSegments 2#2 = some 0x494F ∧ lastSegmentWord fourSegments 3#2 = some 0x2031 ∧
    ∃ t, RunsTo (fourSegments.map GroupWords.decodeInstr) State.reset t :=
  ⟨by decide, by decide, by decide, by decide, by decide, _, _, rfl, _, rfl, _, rfl, _, rfl, rfl⟩

theorem witness_AfCodesGiveFrequencies : 1 ≤ (1#8).toNat ∧ (204#8).toNat ≤ 204 ∧ (0#8).toNat = 0 ∧ 205 ≤ (205#8).toNat ∧
    (∃ e, e ∈ afDecode 204) ∧ ∃ t, exec (.grp0a 1 false 0 false false 0 1 1 0 0) State.reset = .next t :=
  ⟨by decide, by decide, by decide, by decide, ⟨⟨204, 1078⟩, by decide⟩, ⟨_, rfl⟩⟩

/-- Four of the eight slots of a 2B text, none of them with anything but spaces. -/
def fourOfSpaces : StationInfo :=
  { StationInfo.reset with rtSeen := (Vector.replicate 4 true : Vector Bool 4) ++ (Vector.replicate 12 false : Vector Bool 12) }

/-- "HI THE", with four of the eight slots of a 2B text. -/
def fourOfText : StationInfo := { textThree with rtSeen := fourOfSpaces.rtSeen }

/-- Three slots of eight are too few for 2B; four of spaces are ready and empty; four of "HI THE" are a text. -/
theorem witness_TextIsReportedFromHalfItsSlots : gtOf 0x2002 = 2#4 ∧ gtOf 0x2802 = 2#4 ∧
    2 * countedSlots Params.default textThree .b < expectedSlots .b ∧
    expectedSlots .b ≤ 2 * countedSlots Params.default fourOfSpaces .b ∧ (∀ x ∈ textBeforeTrim fourOfSpaces .b, x = 0x20#8) ∧
    expectedSlots .b ≤ 2 * countedSlots Params.default fourOfText .b ∧ (∃ x ∈ textBeforeTrim fourOfText .b, x ≠ 0x20#8) := by
  decide

/-- A state with a name, a text and a clock meets the invariant of the registers. -/
def fullInfo : StationInfo :=
  { textTwo with
    psBuf := nameComplete.psBuf
    psSeen := nameComplete.psSeen
    clkValid := true
    clk := clock2024 }

theorem fullInfo_inv : StationInfo.Inv Params.default fullInfo where
  psPrintable := by decide
  rtPrintable := by decide
  psUnwritten := by decide
  rtUnwritten := by decide
  abAndVer := by decide
  noTextYet := by decide
  clockAbsent := by decide
  clockPresent := by decide

theorem witness_CarriageReturnNeverCuts : (0x0D#8 ∉ [0x41#8, 0x20#8]) ∧ ∃ i, StationInfo.Inv Params.default i :=
  ⟨by decide, _, fullInfo_inv⟩

/-- A flip in version A and one in version B. -/
theorem witness_OldTextNeverSurvivesFlip : gtOf 0x2002 = 2#4 ∧ verOf 0x2002 = .a ∧ verOf 0x2802 = .b ∧ gtOf 0x2802 = 2#4 ∧
    (at0 textTwo).info.rtAb = some true ∧ true ≠ abOf 0x2002 ∧ true ≠ abOf 0x2802 ∧
    (∃ t, exec (.decode 1 0x2002 0x494A 0x4B4C) (at0 textTwo) = .next t) ∧
    ∃ t, exec (.decode 1 0x2802 0 0x4B4C) (at0 textTwo) = .next t :=
  ⟨by decide, by decide, by decide, by decide, by decide, by decide, by decide, ⟨_, rfl⟩, ⟨_, rfl⟩⟩

/-- Two buffers that differ at position 32 only, and two bitmaps that differ at slot 8 only. -/
theorem witness_VersionBReportReadsItsHalf :
    (∀ k : Fin 64, k.val < 32 → textTwo.rtBuf[k] = (writeAt textTwo.rtBuf 32 0x41#8)[k]) ∧
    (∀ k : Fin 16, (Params.default.rtCountWindow = .allSlots ∨ k.val < 8) →
      textTwo.rtSeen[k] = (writeAt textTwo.rtSeen 8 true)[k]) := by decide

theorem witness_FirstFlagShowsInRawViewOnly : (Instr.decode 1 0x2002 0x494A 0x4B4C).effective.isGroup2 = true ∧
    (∀ k : Fin 64, (at0 nameComplete).info.rtBuf[k] = 0x20#8) ∧
    ∀ k : Fin 16, (at0 nameComplete).info.rtSeen[k] = false := by decide

theorem witness_Grp4aSetsTheClock : 0 < (1#17).toNat ∧ (0#17) = 0#17 := by decide

theorem witness_MjdToDateIsGregorianInRange : 15079 ≤ (15079#17).toNat ∧ (88127#17).toNat ≤ 88127 := by decide

theorem witness_AbsentClockIsUnobservable : (at0 textTwo).info.clkValid = false := rfl

theorem witness_PowerOnIsTheResetState : ∃ t, exec .reset (at0 textTwo) = .next t := ⟨_, rfl⟩

theorem witness_QueryReportsTheRegisters : (at0 nameComplete).info.rtVer = none ∧ (at0 textTwo).info.rtVer = some .a ∧
    (at0 textTwo).info.clkValid = false ∧
    (at0 { textTwo with clkValid := true, clk := clock2024 }).info.clkValid = true := by decide

theorem witness_QueryIsReadOnly : ∃ t, exec .query (at0 textTwo) = .next t := ⟨_, rfl⟩

theorem witness_EachGroupWritesItsOwnFields : (∃ t, exec (.grp1b 1) (at0 textTwo) = .next t) ∧ Instr.grp1b 1 ≠ .reset ∧
    (Instr.grp1b 1).effective.isGroup0 = false ∧ (Instr.grp1b 1).effective.isGroup2 = false ∧
    (Instr.grp1b 1).effective.setsClock = false ∧ (Instr.decode 1 0xF000 0 0).effective.mnemonic = "GRPNOP" ∧
    (∃ t, exec (.decode 1 0xF000 0 0) (at0 textTwo) = .next t) :=
  ⟨⟨_, rfl⟩, by decide, by decide, by decide, by decide, by decide, ⟨_, rfl⟩⟩

/-- A flip that takes the flag of slot 0 back. -/
theorem witness_CompletionFallsOnlyByResetOrToggle : ∃ t, exec (.grp2a 1 false 2 0x49 0x4A 0x4B 0x4C) (at0 textTwo) = .next t ∧
    (at0 textTwo).info.rtSeen[(0 : Fin 16)] = true ∧ t.info.rtSeen[(0 : Fin 16)] = false :=
  ⟨_, rfl, by decide, by decide⟩

theorem witness_StepKeepsTheInvariant : ∃ s t : State, s.Inv ∧ s.pending ≠ [] ∧ step s = .next t :=
  ⟨(at0 fullInfo).issueFirst ⟨0, flipWords⟩, _, ⟨fullInfo_inv, by decide⟩, by decide, rfl⟩

theorem witness_DateStringIsYearMonthDay : (9999 : Nat) ≤ 9999 ∧ 1 ≤ 12 ∧ 12 ≤ 12 ∧ 1 ≤ 31 ∧ 31 ≤ 31 := by decide

theorem witness_OffsetValueAndString : ∃ p q : Bool, p = false ∧ q = true := ⟨false, true, rfl, rfl⟩

end Sys2Proof.Tests
end

section
/-!
RESET (R47, R260): what the command does, once, for every statement about it.
-/

namespace Sys2Proof.Machine

/-- RESET replaces the registers by S0 and leaves the parameters, the command stream and the outputs (R260). -/
@[simp] theorem exec_reset (s : State) : exec .reset s = .next { s with info := .reset } :=
  (complete_eq_next s _ .reset).2 rfl

/-- Settles O47: RESET answers S0, and S0 holds in each field the reset value of its rule. -/
theorem resetRestoresEveryField : Obligations.ResetRestoresEveryField := by
  intro s
  rw [exec_reset]
  rfl

end Sys2Proof.Machine
end

section
/-!
The selector fields of word B and the dispatch map (R91, R92), the clock fields of a group 4A (R97, R98) and the CMD
field (R101), each as arithmetic on the words.
-/

namespace Sys2Proof

/-! ### The selector B[15:11] -/

/-- The bit B[11] that a version stands for (R91). -/
def Version.bit : Version → Nat
  | .a => 0
  | .b => 1

theorem Version.eq_a_iff_bit (v : Version) : v = .a ↔ v.bit = 0 := by
  cases v <;> simp [Version.bit]

theorem Version.eq_b_iff_bit (v : Version) : v = .b ↔ v.bit = 1 := by
  cases v <;> simp [Version.bit]

/-- VER, as its bit, is the digit of B at position 11 (R91). -/
theorem verOf_bit (b : Word) : (verOf b).bit = b.toNat / 2048 % 2 := by
  have hbit : b.getLsbD 11 = true ↔ b.toNat / 2048 % 2 = 1 := getLsbD_iff b 11
  unfold verOf
  split
  · exact (hbit.mp ‹_›).symm
  · show 0 = b.toNat / 2048 % 2
    have := mt hbit.mpr ‹_›
    omega

/-- The number B[15:11] is GT followed by the bit of VER. -/
theorem selector_eq (b : Word) : b.toNat / 2048 = 2 * (gtOf b).toNat + (verOf b).bit := by
  rw [gtOf_toNat, verOf_bit]
  omega

/-- Settles O7: GT and VER are the digits of B that R91 names. -/
theorem selectorFieldsAreTopBits : Obligations.SelectorFieldsAreTopBits := by
  intro b
  refine ⟨gtOf_toNat b, ?_, ?_⟩
  · rw [Version.eq_b_iff_bit, verOf_bit]
  · rw [Version.eq_a_iff_bit, verOf_bit]

/-! ### The dispatch map -/

/-- The row of the dispatch map at the number B[15:11]: the table of R92. -/
def rowAt (n : Nat) : GroupRow :=
  if n = 0 then .grp0a
  else if n = 1 then .grp0b
  else if n = 2 then .grp1a
  else if n = 3 then .grp1b
  else if n = 4 then .grp2a
  else if n = 5 then .grp2b
  else if n = 8 then .grp4a
  else if n = 9 then .grp4b
  else .grpnop

/-- Past the last row with a handler the table holds GRPNOP only. -/
theorem rowAt_of_ten_le {n : Nat} (h : 10 ≤ n) : rowAt n = .grpnop := by
  unfold rowAt
  iterate 8 rw [if_neg (by omega)]

/-- The row is read off the number B[15:11] alone: group types 0 to 4 one by one, all above them at once. -/
theorem groupRow_eq_rowAt (b : Word) : groupRow b = rowAt (b.toNat / 2048) := by
  rw [selector_eq, groupRow]
  generalize (gtOf b).toNat = gt
  generalize verOf b = ver
  match gt with
  | 0 | 1 | 2 | 3 | 4 => cases ver <;> rfl
  | n + 5 => exact (rowAt_of_ten_le (by omega)).symm

/-- The decoder builds the instruction of the row the dispatch map selects. -/
theorem decodeGroup_mnemonic (g : GroupWords) : (decodeGroup g).mnemonic = (groupRow g.b).mnemonic := by
  unfold decodeGroup
  cases groupRow g.b <;> rfl

/-- Settles O8: the row by `groupRow_eq_rowAt`, the decoded instruction by `decodeGroup_mnemonic`. -/
theorem dispatchMapSelectsTheRow : Obligations.DispatchMapSelectsTheRow :=
  ⟨groupRow_eq_rowAt, decodeGroup_mnemonic⟩

/-! ### The clock fields of a group 4A -/

theorem mjdOf_toNat (b c : Word) : (mjdOf b c).toNat = b.toNat % 4 * 32768 + c.toNat / 2 := by
  have := c.isLt
  rw [mjdOf, toNat_append_add]
  simp only [BitVec.extractLsb'_toNat, Nat.shiftRight_eq_div_pow]
  omega

theorem hourOf_toNat (c d : Word) : (hourOf c d).toNat = c.toNat % 2 * 16 + d.toNat / 4096 := by
  have := d.isLt
  rw [hourOf, toNat_append_add]
  simp only [BitVec.extractLsb'_toNat, Nat.shiftRight_eq_div_pow]
  omega

theorem minuteOf_toNat (d : Word) : (minuteOf d).toNat = d.toNat / 64 % 64 := by
  simp only [minuteOf, BitVec.extractLsb'_toNat, Nat.shiftRight_eq_div_pow]

theorem ofsSignOf_iff (d : Word) : ofsSignOf d = true ↔ d.toNat / 32 % 2 = 1 :=
  getLsbD_iff d 5

theorem ofsHalfOf_toNat (d : Word) : (ofsHalfOf d).toNat = d.toNat % 32 := by
  simp only [ofsHalfOf, BitVec.extractLsb'_toNat, Nat.shiftRight_eq_div_pow]
  omega

/-- Settles O11, field by field. -/
theorem clockFieldsAreAssembled : Obligations.ClockFieldsAreAssembled := fun b c d =>
  ⟨mjdOf_toNat b c, hourOf_toNat c d, minuteOf_toNat d, ofsSignOf_iff d, ofsHalfOf_toNat d⟩

/-! ### The CMD field -/

/-- Settles O9: each of the four values of CMD selects its branch of `decodeCommand`, whatever the operand words. -/
theorem commandFieldSelectsTheCommand : Obligations.CommandFieldSelectsTheCommand := fun _ =>
  ⟨rfl, rfl, rfl, rfl⟩

end Sys2Proof
end

section
/-!
DECODE and its dispatch (R120, R122 to R124), the presentation of words in hexadecimal (R126): which group instruction
runs, which groups write PI, what a store can put into the two buffers.
-/

namespace Sys2Proof.Machine

open Sys2Proof.Claims

/-! ### The group instruction a DECODE runs -/

/-- The group type as a number selects the same values as GT itself (R91). -/
theorem gtOf_eq_iff (b : Word) {n : Nat} (h : n < 16) : gtOf b = BitVec.ofNat 4 n ↔ b.toNat / 4096 = n := by
  rw [← BitVec.toNat_inj, gtOf_toNat, BitVec.toNat_ofNat, Nat.mod_eq_of_lt h]

/-- The dispatch map as a chain of tests on GT and on the bit of VER (R92). -/
theorem groupRow_eq_ite (b : Word) : groupRow b =
    if b.toNat / 4096 = 0 then (if b.getLsbD 11 then .grp0b else .grp0a)
    else if b.toNat / 4096 = 1 then (if b.getLsbD 11 then .grp1b else .grp1a)
    else if b.toNat / 4096 = 2 then (if b.getLsbD 11 then .grp2b else .grp2a)
    else if b.toNat / 4096 = 4 then (if b.getLsbD 11 then .grp4b else .grp4a)
    else .grpnop := by
  rw [groupRow, gtOf_toNat, verOf]
  generalize b.toNat / 4096 = gt
  match gt with
  | 0 | 1 | 2 | 3 | 4 => cases b.getLsbD 11 <;> rfl
  | n + 5 => simp

/-- A group instruction is what runs when it is given as such. -/
@[simp] theorem effective_decodeGroup (g : GroupWords) : (decodeGroup g).effective = decodeGroup g := by
  unfold decodeGroup
  cases groupRow g.b <;> rfl

/-- DECODE leads to the state after the group instruction its words hold (R120). -/
theorem exec_decode (a b c d : Word) (s : State) :
    exec (.decode a b c d) s = .next (stateAfter (decodeGroup ⟨a, b, c, d⟩) s) :=
  exec_eq _ s

/-- A group puts one result on the result port (R52). -/
theorem outputsOf_decodeGroup (p : Params) (i : StationInfo) (g : GroupWords) :
    ∃ r, outputsOf p i (decodeGroup g) = [.result r] := by
  unfold decodeGroup
  cases groupRow g.b
  case grp4a =>
    simp only [outputsOf]
    split <;> exact ⟨_, rfl⟩
  all_goals exact ⟨_, rfl⟩

/-- Settles O22: the handler by `exec_decode`, its name by `groupRow_eq_ite`, its result by `outputsOf_decodeGroup`. -/
theorem decodeRunsItsHandler : Obligations.DecodeRunsItsHandler := by
  intro a b c d s
  refine ⟨?_, ?_, ?_⟩
  · rw [exec_decode, exec_eq, effective_decodeGroup]
  · rw [decodeGroup_mnemonic, groupRow_eq_ite]
    simp only [apply_ite GroupRow.mnemonic]
    rfl
  · obtain ⟨r, hr⟩ := outputsOf_decodeGroup s.params s.info ⟨a, b, c, d⟩
    exact ⟨_, r, exec_decode a b c d s, rfl, rfl, rfl, by rw [stateAfter_outputs, hr]⟩

/-! ### The PI latch -/

/-- A row's group type is in PI_LATCH_GROUPS (R122); GRPNOP stands for no listed type. -/
def rowLatchesPi (l : PiLatchGroups) : GroupRow → Bool
  | .grp0a | .grp0b => l.g0
  | .grp1a | .grp1b => l.g1
  | .grp2a | .grp2b => l.g2
  | .grp4a | .grp4b => l.g4
  | .grpnop => false

/-- PI after a group: word A when the row's type latches it (R122). -/
theorem infoAfter_decodeGroup_pi (p : Params) (i : StationInfo) (g : GroupWords) :
    (infoAfter p i (decodeGroup g)).pi = if rowLatchesPi p.piLatch (groupRow g.b) then g.a else i.pi := by
  unfold decodeGroup
  cases groupRow g.b
  case grp2a => exact group2aInfo_pi ..
  case grp2b => exact group2bInfo_pi ..
  case grp4a => simp only [infoAfter]; split <;> rfl
  all_goals rfl

/-- The rows that latch PI, by the group type as a number. -/
theorem rowLatchesPi_groupRow (l : PiLatchGroups) (b : Word) : rowLatchesPi l (groupRow b) = true ↔
    (b.toNat / 4096 = 0 ∧ l.g0 = true) ∨ (b.toNat / 4096 = 1 ∧ l.g1 = true) ∨
      (b.toNat / 4096 = 2 ∧ l.g2 = true) ∨ (b.toNat / 4096 = 4 ∧ l.g4 = true) := by
  rw [groupRow_eq_ite]
  generalize b.toNat / 4096 = gt
  split_ifs <;> simp_all [rowLatchesPi]

/-- Settles O24: the row latches PI exactly when its group type is listed. -/
theorem piIsLatchedByListedGroups : Obligations.PiIsLatchedByListedGroups := by
  intro a b c d s t h
  rw [exec_next h, stateAfter_info, Instr.effective, infoAfter_decodeGroup_pi]
  exact if_congr (rowLatchesPi_groupRow _ b) rfl rfl

/-! ### The unsupported group types -/

/-- GRPNOP answers EMPTY and writes no register (R124). -/
theorem exec_grpnop (gt : BitVec 4) (s : State) :
    exec (.grpnop gt) s = .next { s with outputs := s.outputs ++ [.result (resultOf none none none none none)] } :=
  rfl

/-- A group type without a handler selects GRPNOP (R92). -/
theorem groupRow_of_unsupported {b : Word} (h0 : gtOf b ≠ 0#4) (h1 : gtOf b ≠ 1#4) (h2 : gtOf b ≠ 2#4)
    (h4 : gtOf b ≠ 4#4) : groupRow b = .grpnop := by
  rw [ne_eq, gtOf_eq_iff b (by decide)] at h0 h1 h2 h4
  rw [groupRow_eq_ite, if_neg h0, if_neg h1, if_neg h2, if_neg h4]

/-- Settles O23: such a DECODE runs GRPNOP, whose meaning is `exec_grpnop`. -/
theorem unsupportedGroupsAreNoOps : Obligations.UnsupportedGroupsAreNoOps := by
  refine ⟨fun a b c d s h0 h1 h2 h4 => ?_, exec_grpnop⟩
  have runs : decodeGroup ⟨a, b, c, d⟩ = .grpnop (gtOf b) := by
    simp only [decodeGroup, groupRow_of_unsupported h0 h1 h2 h4]
  calc exec (.decode a b c d) s
      = exec (.grpnop (gtOf b)) s := by rw [exec_decode, exec_eq, runs]; rfl
    _ = _ := exec_grpnop (gtOf b) s

/-! ### Stored characters -/

/-- Subst is the rule R123 states, on the number of the code. -/
theorem subst_eq_stored (x : Byte) : subst x = stored x := by
  unfold subst stored
  exact if_congr BitVec.lt_def rfl rfl

/-- Every element of the second buffer is that of the first, or no control code. -/
def KeptOrPrintable {n : Nat} (old new : Vector Byte n) : Prop :=
  ∀ k : Fin n, new[k] = old[k] ∨ 0x20#8 ≤ new[k]

namespace KeptOrPrintable

variable {n : Nat} {old new : Vector Byte n}

theorem refl (buf : Vector Byte n) : KeptOrPrintable buf buf := fun _ => .inl rfl

/-- A buffer filled with spaces holds no control code. -/
theorem spaces : KeptOrPrintable old (Vector.replicate n 0x20#8) := fun k => by
  right
  simp

/-- A substituted character may be stored anywhere (R123). -/
theorem writeSubst (h : KeptOrPrintable old new) (i : Fin n) (x : Byte) :
    KeptOrPrintable old (writeAt new i (subst x)) := fun k => by
  rw [getFin_writeAt]
  split
  · exact .inr (le_subst x)
  · exact h k

/-- The text the toggle check leaves for a group 2 to write into (R190, R193). -/
theorem toggled (buf : Vector Byte 64) (clear : Bool) :
    KeptOrPrintable buf (bif clear then Vector.replicate 64 0x20#8 else buf) := by
  cases clear
  · exact refl buf
  · exact spaces

end KeptOrPrintable

/-- PS_BUF after any instruction: groups 0 store two substituted characters, RESET fills with spaces. -/
theorem infoAfter_psBuf (p : Params) (i : StationInfo) (j : Instr) :
    KeptOrPrintable i.psBuf (infoAfter p i j).psBuf := by
  cases j
  case reset => exact .spaces
  case grp0a | grp0b => exact ((KeptOrPrintable.refl _).writeSubst _ _).writeSubst _ _
  case grp2a | grp2b => simpa [infoAfter] using .refl _
  case grp4a => simp only [infoAfter]; split <;> exact .refl _
  all_goals exact .refl _

/-- RT_BUF after any instruction: groups 2 store substituted characters after the toggle check, RESET fills it. -/
theorem infoAfter_rtBuf (p : Params) (i : StationInfo) (j : Instr) :
    KeptOrPrintable i.rtBuf (infoAfter p i j).rtBuf := by
  cases j
  case reset => exact .spaces
  case grp2a =>
    simp only [infoAfter, group2aInfo_rtBuf]
    exact ((((KeptOrPrintable.toggled _ _).writeSubst _ _).writeSubst _ _).writeSubst _ _).writeSubst _ _
  case grp2b =>
    simp only [infoAfter, group2bInfo_rtBuf]
    exact ((KeptOrPrintable.toggled _ _).writeSubst _ _).writeSubst _ _
  case grp4a => simp only [infoAfter]; split <;> exact .refl _
  all_goals exact .refl _

/-- The registers after a group 0 of either version (R150). -/
theorem infoAfter_decodeGroup_of_group0 (p : Params) (i : StationInfo) {g : GroupWords} (h : gtOf g.b = 0#4) :
    infoAfter p i (decodeGroup g) =
      group0Common p g.a (tpOf g.b) (ptyOf g.b) (taOf g.b) (msOf g.b) (segOf g.b) (hi8 g.d) (lo8 g.d) i := by
  cases hv : verOf g.b <;> simp [decodeGroup, groupRow, h, hv, infoAfter]

/-- The instruction of a group 2A (R92, R95). -/
theorem decodeGroup_of_group2a {g : GroupWords} (h : gtOf g.b = 2#4) (hv : verOf g.b = .a) :
    decodeGroup g = .grp2a g.a (abOf g.b) (slotOf g.b) (hi8 g.c) (lo8 g.c) (hi8 g.d) (lo8 g.d) := by
  simp [decodeGroup, groupRow, h, hv]

/-- The instruction of a group 2B (R92, R95). -/
theorem decodeGroup_of_group2b {g : GroupWords} (h : gtOf g.b = 2#4) (hv : verOf g.b = .b) :
    decodeGroup g = .grp2b g.a (abOf g.b) (slotOf g.b) (hi8 g.d) (lo8 g.d) := by
  simp [decodeGroup, groupRow, h, hv]

/-- A group 0 leaves its two characters, substituted, in PS_BUF. -/
theorem segmentStored_stateAfter {g : GroupWords} (h : gtOf g.b = 0#4) (s : State) :
    SegmentStored (stateAfter (decodeGroup g) s) g.b g.d := by
  rw [SegmentStored, stateAfter_info, infoAfter_decodeGroup_of_group0 _ _ h, group0Common_psBuf]
  simp only [Fin.getElem_fin, getElem_writeSegment, ← subst_eq_stored]
  constructor <;> intro k hk
  · rw [if_pos hk]
  · rw [if_neg (by omega), if_pos hk]

/-- A group 2 leaves the characters of its version, substituted, in RT_BUF. -/
theorem slotStored_stateAfter {g : GroupWords} (h : gtOf g.b = 2#4) (s : State) :
    SlotStored (stateAfter (decodeGroup g) s) g.b g.c g.d := by
  simp only [SlotStored, stateAfter_info, Fin.getElem_fin, ← subst_eq_stored]
  constructor <;> intro hv
  · simp only [decodeGroup_of_group2a h hv, infoAfter, group2aInfo_rtBuf, getElem_writeSlotA]
    refine ⟨?_, ?_, ?_, ?_⟩ <;> intro k hk <;> simp [hk]
  · simp only [decodeGroup_of_group2b h hv, infoAfter, group2bInfo_rtBuf, getElem_writeSlotB]
    constructor <;> intro k hk <;> simp [hk]

/-- Settles O25: what Subst does, what groups 0 and 2 store, and that no instruction stores a control code. -/
theorem controlCodesAreNeverStored : Obligations.ControlCodesAreNeverStored := by
  refine ⟨fun x => ?_, fun a b c d s h => ?_, fun a b c d s h => ?_, fun i s t h => ?_⟩
  · rw [subst_eq_stored, stored]
    exact ⟨fun hx => if_pos hx, fun hx => if_neg (Nat.not_lt.mpr hx)⟩
  · exact ⟨_, exec_decode a b c d s, segmentStored_stateAfter (g := ⟨a, b, c, d⟩) h s⟩
  · exact ⟨_, exec_decode a b c d s, slotStored_stateAfter (g := ⟨a, b, c, d⟩) h s⟩
  · rw [exec_next h, stateAfter_info]
    exact ⟨infoAfter_psBuf s.params s.info i.effective, infoAfter_rtBuf s.params s.info i.effective⟩

/-! ### Hexadecimal presentation -/

/-- Hex4 shows the four digits a word is put together from, most significant first (R126). -/
theorem hex4_append (hc : HexCase) (x3 x2 x1 x0 : BitVec 4) :
    hex4 hc (x3 ++ x2 ++ x1 ++ x0) = [hexDigit hc x3, hexDigit hc x2, hexDigit hc x1, hexDigit hc x0] := by
  have e3 : (x3 ++ x2 ++ x1 ++ x0).extractLsb' 12 4 = x3 :=
    (BitVec.extractLsb'_append_eq_of_le (by decide)).trans <|
      (BitVec.extractLsb'_append_eq_of_le (by decide)).trans BitVec.extractLsb'_append_eq_left
  have e2 : (x3 ++ x2 ++ x1 ++ x0).extractLsb' 8 4 = x2 :=
    (BitVec.extractLsb'_append_eq_of_le (by decide)).trans <|
      (BitVec.extractLsb'_append_eq_of_le (by decide)).trans BitVec.extractLsb'_append_eq_right
  have e1 : (x3 ++ x2 ++ x1 ++ x0).extractLsb' 4 4 = x1 :=
    (BitVec.extractLsb'_append_eq_of_le (by decide)).trans BitVec.extractLsb'_append_eq_right
  have e0 : (x3 ++ x2 ++ x1 ++ x0).extractLsb' 0 4 = x0 := BitVec.extractLsb'_append_eq_right
  unfold hex4
  rw [e3, e2, e1, e0]

/-- Settles O57: the four digits by `hex4_append`, each digit's character in either case by its sixteen values. -/
theorem hexIsFourDigits : Obligations.HexIsFourDigits :=
  ⟨hex4_append, by decide, by decide, rfl, fun _ _ => ⟨rfl, rfl⟩⟩

end Sys2Proof.Machine
end

section
/-!
Group 0 (R150 to R154, R158): which group instruction a DECODE of it runs and which bits do not reach it, the registers
and the record of either version, the name report, the alternative-frequency codes.
-/

namespace Sys2Proof

/-! ### The fields of a group 0 and the ignored bit B[2] -/

/-- A field of word B that does not cover B[2] reads the same when B[2] is flipped. -/
theorem extractLsb'_flip_bit2 {start len : Nat} (b : Word) (outside : (0x0004#16).extractLsb' start len = 0#len) :
    (b ^^^ 0x0004#16).extractLsb' start len = b.extractLsb' start len := by
  rw [BitVec.extractLsb'_xor, outside, BitVec.xor_zero]

/-- A bit of word B other than B[2] reads the same when B[2] is flipped. -/
theorem getLsbD_flip_bit2 {k : Nat} (b : Word) (outside : (0x0004#16).getLsbD k = false) :
    (b ^^^ 0x0004#16).getLsbD k = b.getLsbD k := by
  rw [BitVec.getLsbD_xor, outside, Bool.xor_false]

@[simp] theorem gtOf_flip_bit2 (b : Word) : gtOf (b ^^^ 0x0004#16) = gtOf b := extractLsb'_flip_bit2 b rfl
@[simp] theorem tpOf_flip_bit2 (b : Word) : tpOf (b ^^^ 0x0004#16) = tpOf b := getLsbD_flip_bit2 b rfl
@[simp] theorem ptyOf_flip_bit2 (b : Word) : ptyOf (b ^^^ 0x0004#16) = ptyOf b := extractLsb'_flip_bit2 b rfl
@[simp] theorem taOf_flip_bit2 (b : Word) : taOf (b ^^^ 0x0004#16) = taOf b := getLsbD_flip_bit2 b rfl
@[simp] theorem msOf_flip_bit2 (b : Word) : msOf (b ^^^ 0x0004#16) = msOf b := getLsbD_flip_bit2 b rfl
@[simp] theorem segOf_flip_bit2 (b : Word) : segOf (b ^^^ 0x0004#16) = segOf b := extractLsb'_flip_bit2 b rfl
@[simp] theorem verOf_flip_bit2 (b : Word) : verOf (b ^^^ 0x0004#16) = verOf b := by
  rw [verOf, getLsbD_flip_bit2 b rfl, verOf]

end Sys2Proof

namespace Sys2Proof.Machine

open Sys2Proof.Claims

/-! ### The group instruction a DECODE of a group 0 runs -/

/-- DECODE of a group 0A is GRP0A with the fields of R93. -/
theorem exec_decode_of_group0a {b : Word} (h : gtOf b = 0#4) (hv : verOf b = .a) (a c d : Word) (s : State) :
    exec (.decode a b c d) s =
      exec (.grp0a a (tpOf b) (ptyOf b) (taOf b) (msOf b) (segOf b) (hi8 c) (lo8 c) (hi8 d) (lo8 d)) s := by
  rw [(decodeRunsItsHandler a b c d s).1]
  simp [decodeGroup, groupRow, h, hv]

/-- DECODE of a group 0B is GRP0B with the fields of R93, which are none of word C. -/
theorem exec_decode_of_group0b {b : Word} (h : gtOf b = 0#4) (hv : verOf b = .b) (a c d : Word) (s : State) :
    exec (.decode a b c d) s =
      exec (.grp0b a (tpOf b) (ptyOf b) (taOf b) (msOf b) (segOf b) (hi8 d) (lo8 d)) s := by
  rw [(decodeRunsItsHandler a b c d s).1]
  simp [decodeGroup, groupRow, h, hv]

/-- Settles O4: no field of a group 0 covers B[2], and none of a group 0B is read from word C. -/
theorem groupZeroIgnoredBits : Obligations.GroupZeroIgnoredBits := by
  refine ⟨fun a b c d s h => ?_, fun a b c c' d s h hv => ?_⟩
  · have h' : gtOf (b ^^^ 0x0004#16) = 0#4 := (gtOf_flip_bit2 b).trans h
    cases hv : verOf b
    case a =>
      rw [exec_decode_of_group0a h hv, exec_decode_of_group0a h' ((verOf_flip_bit2 b).trans hv)]
      simp
    case b =>
      rw [exec_decode_of_group0b h hv, exec_decode_of_group0b h' ((verOf_flip_bit2 b).trans hv)]
      simp
  · rw [exec_decode_of_group0b h hv, exec_decode_of_group0b h hv]

/-! ### Alternative frequencies -/

/-- AfDecode gives the entries of R153: 874 + x is 875 + (x − 1) for the codes that give one. -/
theorem afDecode_eq_afEntries (x : Byte) : afDecode x = afEntries x := by
  unfold afDecode afEntries
  split_ifs with valid
  · rw [show 874 + x.toNat = 875 + (x.toNat - 1) by omega]
  · rfl

/-- Every entry of a code has that code's frequency. -/
theorem f100k_of_mem_afDecode {x : Byte} {e : AfEntry} (h : e ∈ afDecode x) : e.f100k = 874 + x.toNat := by
  unfold afDecode at h
  split at h
  · rw [List.mem_singleton.mp h]
  · exact absurd h List.not_mem_nil

/-- A frequency in MHz is its whole part and one decimal digit (R153). -/
theorem presentMhz_eq (e : AfEntry) :
    presentMhz e = Nat.toDigits 10 (e.f100k / 10) ++ ['.', Nat.digitChar (e.f100k % 10)] := by
  have tenths : decimal (e.f100k % 10) = [Nat.digitChar (e.f100k % 10)] :=
    Nat.toDigits_of_lt_base (Nat.mod_lt _ (by decide))
  rw [presentMhz, tenths, List.append_assoc]
  rfl

/-! ### The registers and the record -/

/-- The registers both versions leave are those of R150, position by position. -/
theorem group0Registers_of_info {s t : State} {pi : Word} {tp : Bool} {pty : BitVec 5} {ta ms : Bool} {seg : BitVec 2}
    {ch0 ch1 : Byte} (h : t.info = group0Common s.params pi tp pty ta ms seg ch0 ch1 s.info) :
    Group0Registers s t pi tp pty ta ms seg ch0 ch1 := by
  unfold Group0Registers SameText SameClock
  rw [h]
  refine ⟨rfl, rfl, rfl, rfl, rfl, fun k => ?_, fun k => ?_, ⟨rfl, rfl, rfl, rfl⟩, ⟨rfl, rfl⟩⟩
  · rw [group0Common_psBuf, ← subst_eq_stored, ← subst_eq_stored]
    exact getElem_writeSegment seg _ _ _ k.val k.isLt
  · rw [group0Common_psSeen]
    exact getElem_setSegment seg _ k.val k.isLt

/-- Settles O28: the registers by `group0Registers_of_info`, the list of frequencies by `afDecode_eq_afEntries`. -/
theorem grp0aWritesAndReports : Obligations.Grp0aWritesAndReports := by
  intro pi tp pty ta ms seg af1 af2 ch0 ch1 s
  refine ⟨_, exec_eq _ s, group0Registers_of_info rfl, rfl, rfl, rfl, ?_⟩
  rw [← afDecode_eq_afEntries, ← afDecode_eq_afEntries]
  rfl

/-- Settles O29: as O28, with no list of frequencies. -/
theorem grp0bWritesAndReports : Obligations.Grp0bWritesAndReports := by
  intro pi tp pty ta ms seg ch0 ch1 s
  exact ⟨_, exec_eq _ s, group0Registers_of_info rfl, rfl, rfl, rfl, rfl⟩

/-- Settles O27: in either version the DECODE is the group instruction with the fields of b and d. -/
theorem groupZeroCommonPart : Obligations.GroupZeroCommonPart := by
  intro a b c d s h
  cases hv : verOf b
  case a =>
    obtain ⟨t, runs, registers, emitted⟩ := grp0aWritesAndReports a (tpOf b) (ptyOf b) (taOf b) (msOf b) (segOf b)
      (hi8 c) (lo8 c) (hi8 d) (lo8 d) s
    exact ⟨t, _, (exec_decode_of_group0a h hv a c d s).trans runs, registers, emitted, rfl, rfl, rfl, rfl, rfl⟩
  case b =>
    obtain ⟨t, runs, registers, emitted⟩ := grp0bWritesAndReports a (tpOf b) (ptyOf b) (taOf b) (msOf b) (segOf b)
      (hi8 d) (lo8 d) s
    exact ⟨t, _, (exec_decode_of_group0b h hv a c d s).trans runs, registers, emitted, rfl, rfl, rfl, rfl, rfl⟩

/-- Settles O32: the codes by `afDecode_eq_afEntries`, the value in MHz by `presentMhz_eq`, the order of the two by what
GRP0A outputs. -/
theorem afCodesGiveFrequencies : Obligations.AfCodesGiveFrequencies := by
  refine ⟨fun x h1 h204 => ?_, fun x h => ?_, fun x e he => ?_, ?_⟩
  · rw [afDecode_eq_afEntries, afEntries, if_pos ⟨h1, h204⟩]
  · rw [afDecode, if_neg (by omega)]
  · rw [presentMhz_eq, f100k_of_mem_afDecode he]
  · intro pi tp pty ta ms seg af1 af2 ch0 ch1 s t h
    rw [exec_next h]
    exact ⟨_, rfl, rfl⟩

/-! ### The name report -/

/-- The name is incomplete exactly when a segment is missing (R154). -/
theorem psComplete_eq_false (i : StationInfo) : psComplete i = false ↔ ∃ k : Fin 4, i.psSeen[k] = false := by
  rw [psComplete, Vector.all_toList, Vector.all_eq_false, Fin.exists_iff]
  simp

/-- NameReport is absent exactly when the name is incomplete (R154). -/
theorem nameReport_eq_none {p : Params} {i : StationInfo} : nameReport p i = none ↔ psComplete i = false := by
  unfold nameReport
  cases psComplete i <;> simp

theorem trimmedTrailing_trimTrailing (l : List Byte) : TrimmedTrailing l (trimTrailing l) := by
  obtain ⟨n, whole, noSpace⟩ := trimTrailing_spec l
  exact ⟨⟨n, whole⟩, noSpace⟩

theorem trimmedBoth_trimBoth (l : List Byte) : TrimmedBoth l (trimBoth l) := by
  obtain ⟨m, n, whole, noSpace⟩ := trimBoth_spec l
  exact ⟨⟨m, n, whole⟩, noSpace⟩

/-- Settles O30: presence by the flags of the four segments, the value by what each trim leaves. -/
theorem nameIsReportedWhenComplete : Obligations.NameIsReportedWhenComplete := by
  intro p i
  refine ⟨nameReport_eq_none.trans (psComplete_eq_false i), fun l hl trim => ?_, fun l hl trim => ?_⟩
  · obtain ⟨-, rfl⟩ := nameReport_eq_some.mp hl
    rw [trim]
    exact trimmedTrailing_trimTrailing _
  · obtain ⟨-, rfl⟩ := nameReport_eq_some.mp hl
    rw [trim]
    exact trimmedBoth_trimBoth _

end Sys2Proof.Machine
end

section
/-!
Group 1 (R180, R181): one equation per version, from the registers the PI latch leaves and the record the version reports.
-/

namespace Sys2Proof.Machine

open Sys2Proof.Claims

/-- GRP1A latches PI and reports it with PIN and SLC as received (R180). -/
theorem exec_grp1a (pi pin slc : Word) (s : State) :
    exec (.grp1a pi pin slc) s = .next { s with
      info := latchPi s.params.piLatch.g1 pi s.info
      outputs := s.outputs ++ [.result (resultOf (some pi) (some pin) (some slc) none none)] } :=
  exec_eq (.grp1a pi pin slc) s

/-- GRP1B latches PI and reports nothing else (R181). -/
theorem exec_grp1b (pi : Word) (s : State) :
    exec (.grp1b pi) s = .next { s with
      info := latchPi s.params.piLatch.g1 pi s.info
      outputs := s.outputs ++ [.result (resultOf (some pi) none none none none)] } :=
  exec_eq (.grp1b pi) s

/-- Settles O33: both versions leave the registers of the PI latch, which changes PI alone. -/
theorem group1PassesThrough : Obligations.Group1PassesThrough := fun pi pin slc s =>
  ⟨exec_grp1a pi pin slc s, exec_grp1b pi s⟩

end Sys2Proof.Machine
end

section
/-!
Group 2 (R190 to R196): what the toggle check leaves of the text, the registers and the record of either version, which
group instruction a DECODE runs, and when and how the text is reported.
-/

namespace Sys2Proof.Machine

open Sys2Proof.Claims

/-! ### The toggle check -/

/-- A new message is signalled exactly when the model's toggle check finds a difference (R190). -/
theorem newMessage_iff {s : State} {ab : Bool} : NewMessage s ab ↔ abDiffers s.info.rtAb ab = true := by
  unfold NewMessage
  cases s.info.rtAb <;> simp [abDiffers]

/-- A flag already recorded is no toggle (R190). -/
@[simp] theorem abDiffers_some_self (ab : Bool) : abDiffers (some ab) ab = false := bne_self_eq_false ab

/-- The toggle check on a changed flag does what it does on clear text with the flag already recorded (R190, R193). -/
theorem abToggle_of_differs {i : StationInfo} {ab : Bool} (h : abDiffers i.rtAb ab = true) :
    abToggle ab i = abToggle ab { i with
      rtBuf := Vector.replicate 64 0x20#8, rtSeen := Vector.replicate 16 false, rtAb := some ab } := by
  simp [abToggle_eq, h]

/-- One element of a buffer after the toggle check: kept, or cleared to `fill` when a new message is signalled. -/
theorem getElem_toggled {α : Type} {n : Nat} (s : State) (ab : Bool) (fill : α) (buf : Vector α n) (k : Nat)
    (h : k < n) :
    (NewMessage s ab → (bif abDiffers s.info.rtAb ab then Vector.replicate n fill else buf)[k] = fill) ∧
    (¬ NewMessage s ab → (bif abDiffers s.info.rtAb ab then Vector.replicate n fill else buf)[k] = buf[k]) := by
  rw [newMessage_iff]
  cases abDiffers s.info.rtAb ab <;> simp

/-! ### The registers and the record -/

/-- The registers after a group 2 of version `v`, for the text `buf` its write leaves (R190 to R192). -/
def group2Info (p : Params) (pi : Word) (ab : Bool) (slot : BitVec 4) (v : Version) (buf : Vector Byte 64)
    (i : StationInfo) : StationInfo :=
  let j := abToggle ab (latchPi p.piLatch.g2 pi i)
  { j with rtBuf := buf, rtSeen := writeAt j.rtSeen (slotIndex slot) true, rtVer := some v }

/-- GRP2A leaves these registers with version A's text. -/
theorem group2aInfo_eq (p : Params) (pi : Word) (ab : Bool) (slot : BitVec 4) (t0 t1 t2 t3 : Byte) (i : StationInfo) :
    group2aInfo p pi ab slot t0 t1 t2 t3 i =
      group2Info p pi ab slot .a (group2aInfo p pi ab slot t0 t1 t2 t3 i).rtBuf i := rfl

/-- GRP2B leaves these registers with version B's text. -/
theorem group2bInfo_eq (p : Params) (pi : Word) (ab : Bool) (slot : BitVec 4) (t0 t1 : Byte) (i : StationInfo) :
    group2bInfo p pi ab slot t0 t1 i = group2Info p pi ab slot .b (group2bInfo p pi ab slot t0 t1 i).rtBuf i := rfl

/-- Both versions leave the registers of R190 to R192, but for RT_BUF and RT_VER. -/
theorem group2Registers_of_info {s t : State} {pi : Word} {ab : Bool} {slot : BitVec 4} {v : Version}
    {buf : Vector Byte 64} (h : t.info = group2Info s.params pi ab slot v buf s.info) :
    Group2Registers s t pi ab slot := by
  have seen : t.info.rtSeen = writeAt
      (bif abDiffers s.info.rtAb ab then Vector.replicate 16 false else s.info.rtSeen) (slotIndex slot) true := by
    simp [h, group2Info]
  refine ⟨by simp [h, group2Info], by simp [h, group2Info], fun k own => ?_, fun k other new => ?_,
    fun k other same => ?_, by simp [SameTuning, h, group2Info], by simp [SameName, h, group2Info],
    by simp [SameClock, h, group2Info]⟩
  all_goals rw [seen, Fin.getElem_fin, getElem_setSlot]
  · exact if_pos own
  · rw [if_neg other]
    exact (getElem_toggled s ab false s.info.rtSeen k.val k.isLt).1 new
  · rw [if_neg other]
    exact (getElem_toggled s ab false s.info.rtSeen k.val k.isLt).2 same

/-- A text that reads as after the toggle check at each position outside `own` is kept or cleared there (R193). -/
theorem otherTextKeptOrCleared_of_toggled {s t : State} {ab : Bool} {own : Fin 64 → Prop}
    (h : ∀ k : Fin 64, ¬ own k → t.info.rtBuf[k] =
      (bif abDiffers s.info.rtAb ab then Vector.replicate 64 0x20#8 else s.info.rtBuf)[k]) :
    OtherTextKeptOrCleared s t ab own := by
  constructor <;> intro k other message <;> rw [h k other]
  · exact (getElem_toggled s ab _ s.info.rtBuf k.val k.isLt).1 message
  · exact (getElem_toggled s ab _ s.info.rtBuf k.val k.isLt).2 message

/-- Settles O35: the registers by `group2Registers_of_info`, the text by `getElem_writeSlotA` on what the toggle check
leaves. -/
theorem grp2aWritesAndReports : Obligations.Grp2aWritesAndReports := by
  intro pi ab slot t0 t1 t2 t3 s
  refine ⟨_, exec_eq _ s, group2Registers_of_info (group2aInfo_eq ..), rfl,
    otherTextKeptOrCleared_of_toggled fun k other => ?_, fun k hk => ?_, fun k hk => ?_, fun k hk => ?_, fun k hk => ?_,
    rfl, rfl, rfl, rfl⟩
  all_goals
    simp only [stateAfter_info, Instr.effective, infoAfter, group2aInfo_rtBuf, Fin.getElem_fin, getElem_writeSlotA,
      ← subst_eq_stored]
  · rw [if_neg (by omega), if_neg (by omega), if_neg (by omega), if_neg (by omega)]
  all_goals simp [hk]

/-- Settles O36: as O35, by `getElem_writeSlotB`. -/
theorem grp2bWritesAndReports : Obligations.Grp2bWritesAndReports := by
  intro pi ab slot t0 t1 s
  refine ⟨_, exec_eq _ s, group2Registers_of_info (group2bInfo_eq ..), rfl,
    otherTextKeptOrCleared_of_toggled fun k other => ?_, fun k hk => ?_, fun k hk => ?_, rfl, rfl, rfl, rfl⟩
  all_goals
    simp only [stateAfter_info, Instr.effective, infoAfter, group2bInfo_rtBuf, Fin.getElem_fin, getElem_writeSlotB,
      ← subst_eq_stored]
  · rw [if_neg (by omega), if_neg (by omega)]
  all_goals simp [hk]

/-! ### A DECODE of a group 2 -/

/-- DECODE of a group 2A is GRP2A with the fields of R95. -/
theorem exec_decode_of_group2a {b : Word} (h : gtOf b = 2#4) (hv : verOf b = .a) (a c d : Word) (s : State) :
    exec (.decode a b c d) s = exec (.grp2a a (abOf b) (slotOf b) (hi8 c) (lo8 c) (hi8 d) (lo8 d)) s := by
  have runs := (decodeRunsItsHandler a b c d s).1
  rwa [decodeGroup_of_group2a (g := ⟨a, b, c, d⟩) h hv] at runs

/-- DECODE of a group 2B is GRP2B with the fields of R95. -/
theorem exec_decode_of_group2b {b : Word} (h : gtOf b = 2#4) (hv : verOf b = .b) (a c d : Word) (s : State) :
    exec (.decode a b c d) s = exec (.grp2b a (abOf b) (slotOf b) (hi8 d) (lo8 d)) s := by
  have runs := (decodeRunsItsHandler a b c d s).1
  rwa [decodeGroup_of_group2b (g := ⟨a, b, c, d⟩) h hv] at runs

/-- What a DECODE of a group 2 does, in either version (R190 to R193, R196). -/
theorem decodeGroup2_spec {b : Word} (h : gtOf b = 2#4) (a c d : Word) (s : State) :
    ∃ t, exec (.decode a b c d) s = .next t ∧ Group2Registers s t a (abOf b) (slotOf b) ∧ SlotStored t b c d ∧
      (verOf b = .a → OtherTextKeptOrCleared s t (abOf b) (fun k => k.val / 4 = (slotOf b).toNat)) ∧
      (verOf b = .b → OtherTextKeptOrCleared s t (abOf b) (fun k => k.val / 2 = (slotOf b).toNat)) ∧
      s.Emitted t [.result (resultOf none none none (textReport s.params t.info (verOf b)) none)] := by
  cases hv : verOf b
  case a =>
    obtain ⟨t, runs, registers, -, others, c0, c1, c2, c3, emitted⟩ :=
      grp2aWritesAndReports a (abOf b) (slotOf b) (hi8 c) (lo8 c) (hi8 d) (lo8 d) s
    exact ⟨t, (exec_decode_of_group2a h hv a c d s).trans runs, registers,
      ⟨fun _ => ⟨c0, c1, c2, c3⟩, fun hb => (nomatch hv.symm.trans hb)⟩, fun _ => others, nofun, emitted⟩
  case b =>
    obtain ⟨t, runs, registers, -, others, c0, c1, emitted⟩ :=
      grp2bWritesAndReports a (abOf b) (slotOf b) (hi8 d) (lo8 d) s
    exact ⟨t, (exec_decode_of_group2b h hv a c d s).trans runs, registers,
      ⟨fun ha => (nomatch hv.symm.trans ha), fun _ => ⟨c0, c1⟩⟩, nofun, fun _ => others, emitted⟩

/-- A group 2 that signals a new message does what it does on clear text with its flag already recorded (R190, R193). -/
theorem exec_decode_of_newMessage {b : Word} (h : gtOf b = 2#4) (a c d : Word) {s : State}
    (new : NewMessage s (abOf b)) :
    exec (.decode a b c d) s = exec (.decode a b c d) { s with info := { s.info with
      rtBuf := Vector.replicate 64 0x20#8, rtSeen := Vector.replicate 16 false, rtAb := some (abOf b) } } := by
  have toggle := abToggle_of_differs (i := latchPi s.params.piLatch.g2 a s.info) (newMessage_iff.mp new)
  cases hv : verOf b
  case a =>
    rw [exec_decode_of_group2a h hv, exec_decode_of_group2a h hv]
    simp only [exec, execGrp2a, group2aInfo, toggle]
    rfl
  case b =>
    rw [exec_decode_of_group2b h hv, exec_decode_of_group2b h hv]
    simp only [exec, execGrp2b, group2bInfo, toggle]
    rfl

/-- Settles O34: the clear by `exec_decode_of_newMessage`, what is written and kept by `decodeGroup2_spec`. -/
theorem toggleClearsBeforeTheWrite : Obligations.ToggleClearsBeforeTheWrite := by
  intro a b c d s h
  refine ⟨exec_decode_of_newMessage h a c d, ?_⟩
  obtain ⟨t, runs, registers, stored, othersA, othersB, -⟩ := decodeGroup2_spec h a c d s
  obtain ⟨-, flag, own, -, kept, -⟩ := registers
  exact ⟨t, runs, flag, own, stored, fun same => ⟨fun k other => kept k other same,
    fun hv k other => (othersA hv).2 k other same, fun hv k other => (othersB hv).2 k other same⟩⟩

/-! ### The text report -/

/-- Counting the set bits among the first `m` is counting the set positions below `m`. -/
theorem count_take_ofFn {n : Nat} (f : Fin n → Bool) (m : Nat) :
    ((List.ofFn f).take m).count true = ((List.finRange n).filter (fun k => f k && decide (k.val < m))).length := by
  rw [← List.countP_eq_length_filter]
  induction n generalizing m with
  | zero => simp
  | succ n ih =>
    cases m with
    | zero => simp
    | succ m =>
      rw [List.ofFn_succ, List.take_succ_cons, List.count_cons, ih, List.finRange_succ, List.countP_cons,
        List.countP_map]
      simp [Function.comp_def]

/-- RtExpected is the number of slots R194 gives. -/
theorem rtExpected_eq (v : Version) : rtExpected v = expectedSlots v := by cases v <;> rfl

/-- The slots counted are those R195 lists, under either window. -/
theorem rtCount_eq_countedSlots (p : Params) (i : StationInfo) (v : Version) : rtCount p i v = countedSlots p i v := by
  have below (m : Nat) : (i.rtSeen.toList.take m).count true =
      ((List.finRange 16).filter (fun k => i.rtSeen[k] && decide (k.val < m))).length := by
    have flags : i.rtSeen.toList = List.ofFn fun k : Fin 16 => i.rtSeen[k] :=
      List.ext_getElem (by simp) fun k _ _ => by rw [List.getElem_ofFn, Vector.getElem_toList]; rfl
    rw [flags]
    exact count_take_ofFn _ m
  cases window : p.rtCountWindow
  case prefixWindow => simpa [rtCount, countedFlags, countedSlots, window, rtExpected_eq] using below (expectedSlots v)
  case allSlots =>
    have all : i.rtSeen.toList.take 16 = i.rtSeen.toList := List.take_of_length_le (by simp)
    simpa [rtCount, countedFlags, countedSlots, window, all] using below 16

/-- The text is ready from half of the expected slots (R195). -/
theorem rtReady_iff (p : Params) (i : StationInfo) (v : Version) :
    rtReady p i v = true ↔ expectedSlots v ≤ 2 * countedSlots p i v := by
  rw [rtReady, rtCount_eq_countedSlots, rtExpected_eq, decide_eq_true_iff]

/-- The assembled text is the trimmed text of R196. -/
theorem rtAssembled_eq (i : StationInfo) (v : Version) : rtAssembled i v = trimBoth (textBeforeTrim i v) := by
  cases v <;> rfl

/-- Nothing is left by the trim exactly of a text of spaces. -/
theorem trimBoth_eq_nil {l : List Byte} : trimBoth l = [] ↔ ∀ x ∈ l, x = 0x20#8 := by
  obtain ⟨m, n, whole, noSpace, -⟩ := trimBoth_spec l
  constructor
  · intro nothing x hx
    rw [whole, nothing, List.append_nil, List.mem_append] at hx
    exact hx.elim List.eq_of_mem_replicate List.eq_of_mem_replicate
  · intro spaces
    cases e : trimBoth l with
    | nil => rfl
    | cons x xs =>
      have : x ∈ trimBoth l := e ▸ List.mem_cons_self
      exact absurd (by rw [e, spaces x (mem_of_mem_trimBoth this)]; rfl) noSpace

/-- Settles O37: a group 2's record by `decodeGroup2_spec`, readiness by `rtReady_iff`, what is left by
`trimBoth_eq_nil`. -/
theorem textIsReportedFromHalfItsSlots : Obligations.TextIsReportedFromHalfItsSlots := by
  refine ⟨fun a b c d s h => ?_, fun p i v =>
    ⟨fun few => ?_, fun enough spaces => ?_, fun enough ⟨x, hx, nonspace⟩ => ?_⟩⟩
  · obtain ⟨t, runs, -, -, -, -, emitted⟩ := decodeGroup2_spec h a c d s
    exact ⟨t, runs, emitted⟩
  · have notReady : ¬ rtReady p i v = true := fun ready => absurd ((rtReady_iff p i v).mp ready) (by omega)
    exact if_neg notReady
  · rw [textReport, if_pos ((rtReady_iff p i v).mpr enough), rtAssembled_eq, if_pos (trimBoth_eq_nil.mpr spaces)]
  · have left : trimBoth (textBeforeTrim i v) ≠ [] := fun e => nonspace (trimBoth_eq_nil.mp e x hx)
    exact ⟨_, textReport_eq_some.mpr ⟨(rtReady_iff p i v).mpr enough, left, rtAssembled_eq i v⟩, left,
      trimmedBoth_trimBoth _⟩

end Sys2Proof.Machine
end

section
/-!
Group 4 (R231, R234 to R236): what GRP4A does on either side of the MJD > 0 gate, and what GRP4B does, one equation each.
-/

namespace Sys2Proof.Machine

open Sys2Proof.Claims

section Grp4a
variable (pi : Word) {mjd : BitVec 17} (hour : BitVec 5) (minute : BitVec 6) (ofsSign : Bool) (ofsHalf : BitVec 5)
  (s : State)

/-- GRP4A past the gate latches PI, replaces the whole clock record and reports it (R231, R235). -/
theorem exec_grp4a_of_pos (h : 0 < mjd.toNat) :
    exec (.grp4a pi mjd hour minute ofsSign ofsHalf) s = .next { s with
      info := { latchPi s.params.piLatch.g4 pi s.info with
        clkValid := true
        clk := clockOf s.params mjd hour minute ofsSign ofsHalf }
      outputs := s.outputs ++ [.result (resultOf (some pi) none none none
        (some (clockOf s.params mjd hour minute ofsSign ofsHalf)))] } := by
  rw [exec_eq]
  simp only [stateAfter, Instr.effective, infoAfter, outputsOf, if_pos h]
  rfl

/-- GRP4A stopped by the gate latches PI and reports nothing else (R235). -/
theorem exec_grp4a_of_not_pos (h : ¬ 0 < mjd.toNat) :
    exec (.grp4a pi mjd hour minute ofsSign ofsHalf) s = .next { s with
      info := latchPi s.params.piLatch.g4 pi s.info
      outputs := s.outputs ++ [.result (resultOf (some pi) none none none none)] } := by
  rw [exec_eq]
  simp only [stateAfter, Instr.effective, infoAfter, outputsOf, if_neg h]
  rfl

end Grp4a

/-- GRP4B latches PI and reports nothing else (R234). -/
theorem exec_grp4b (pi : Word) (s : State) :
    exec (.grp4b pi) s = .next { s with
      info := latchPi s.params.piLatch.g4 pi s.info
      outputs := s.outputs ++ [.result (resultOf (some pi) none none none none)] } :=
  exec_eq (.grp4b pi) s

/-- Settles O42: the two sides of the gate; the clock record is `clockOf`, each field as carried. -/
theorem grp4aSetsTheClock : Obligations.Grp4aSetsTheClock := by
  intro pi mjd hour minute ofsSign ofsHalf s
  refine ⟨fun positive => ⟨clockOf s.params mjd hour minute ofsSign ofsHalf, rfl, ?_⟩, fun zero => ?_⟩
  · exact exec_grp4a_of_pos pi hour minute ofsSign ofsHalf s positive
  · subst zero
    exact exec_grp4a_of_not_pos pi hour minute ofsSign ofsHalf s (by decide)

/-- Settles O43: the registers GRP4B leaves are those of the PI latch, which changes PI alone. -/
theorem grp4bReportsPiOnly : Obligations.Grp4bReportsPiOnly := exec_grp4b

end Sys2Proof.Machine
end

section
/-!
The strings of a clock record (R238 to R240): decimal digits as the library's, the time, the UTC offset.
-/

namespace Sys2Proof.Machine

/-- The last decimal digit of a number is the library's character for it. -/
theorem decimalDigit_eq_digitChar (n : Nat) : decimalDigit n = Nat.digitChar (n % 10) := by
  have digits : ∀ d < 10, Char.ofNat (0x30 + d) = Nat.digitChar d := by decide
  exact digits (n % 10) (Nat.mod_lt n (by decide))

/-- Two decimal digits hold a number below 100. -/
theorem decimal2_eq_of_lt {n : Nat} (h : n < 100) : decimal2 n = [Nat.digitChar (n / 10), Nat.digitChar (n % 10)] := by
  have tens : n / 10 % 10 = n / 10 := Nat.mod_eq_of_lt (by omega)
  rw [decimal2, decimalDigit_eq_digitChar, decimalDigit_eq_digitChar, tens]

/-- Settles O58: the hour is below 32 and the minute below 64, so two digits hold each. -/
theorem timeStringIsHourAndMinute : Obligations.TimeStringIsHourAndMinute := by
  intro hour minute
  have hourFits : hour.toNat < 100 := by omega
  have minuteFits : minute.toNat < 100 := by omega
  rw [timeString, decimal2_eq_of_lt hourFits, decimal2_eq_of_lt minuteFits]
  rfl

/-- Twice the offset in hours is the number of half-hours, signed by the sign bit (R239). -/
theorem two_mul_offsetHours (sign : Bool) (half : BitVec 5) :
    2 * offsetHours sign half = (if sign then -1 else 1) * (half.toNat : Rat) :=
  mul_div_cancel₀ _ two_ne_zero

/-- Settles O59: the value by `two_mul_offsetHours` at either sign, the string by its definition. -/
theorem offsetValueAndString : Obligations.OffsetValueAndString := by
  intro sign half
  refine ⟨fun positive => ?_, fun negative => ?_, ?_⟩
  · rw [two_mul_offsetHours, positive]
    exact one_mul _
  · rw [two_mul_offsetHours, negative]
    exact neg_one_mul _
  · exact List.append_assoc _ ['.'] _

end Sys2Proof.Machine
end

section
/-!
QUERY and CMDNOP (R261, R262): what each command does, once, for every statement about it, and the text and clock of the
snapshot by case.
-/

namespace Sys2Proof.Machine

/-! ### QUERY -/

/-- QUERY puts the snapshot on its port and leaves everything else (R261, R263). -/
@[simp] theorem exec_query (s : State) :
    exec .query s = .next { s with outputs := s.outputs ++ [.snapshot (snapshotOf s.params s.info)] } :=
  exec_eq .query s

section Snapshot
variable (p : Params) {i : StationInfo}

/-- No group 2 has been received: the snapshot has no text. -/
theorem snapshotOf_rt_of_none (h : i.rtVer = none) : (snapshotOf p i).rt = none := by
  rw [snapshotOf, queryText, h]

/-- The snapshot's text is the report of the version of the most recent group 2. -/
theorem snapshotOf_rt_of_some {v : Version} (h : i.rtVer = some v) : (snapshotOf p i).rt = textReport p i v := by
  rw [snapshotOf, queryText, h]

/-- The snapshot has a clock only while CLK_VALID is set. -/
theorem snapshotOf_clock_of_absent (h : i.clkValid = false) : (snapshotOf p i).clock = none :=
  if_neg (ne_true_of_eq_false h)

/-- A valid clock is shown whole. -/
theorem snapshotOf_clock_of_valid (h : i.clkValid = true) : (snapshotOf p i).clock = some i.clk :=
  if_pos h

end Snapshot

/-- Settles O49: the snapshot is `snapshotOf`; its text and clock by case, every other field the register itself. -/
theorem queryReportsTheRegisters : Obligations.QueryReportsTheRegisters := by
  intro s
  refine ⟨snapshotOf s.params s.info, exec_query s, rfl, rfl, rfl, rfl, rfl, rfl, ?_, ?_, ?_, ?_, rfl⟩
  · exact snapshotOf_rt_of_none s.params
  · exact fun _ => snapshotOf_rt_of_some s.params
  · exact snapshotOf_clock_of_absent s.params
  · exact snapshotOf_clock_of_valid s.params

/-! ### CMDNOP -/

/-- CMDNOP completes with the registers as they are and no output (R262). -/
@[simp] theorem exec_cmdnop (s : State) : exec .cmdnop s = .next s :=
  (complete_eq_next s s s.info).2 rfl

/-- Settles O51: CMDNOP answers the state it is given. -/
theorem cmdnopDoesNothing : Obligations.CmdnopDoesNothing := exec_cmdnop

end Sys2Proof.Machine
end

section
/-!
Exceptions (R280, R291): an overlapping pair of commands is refused at the command port, and an instruction, once
taken, always completes.
-/

namespace Sys2Proof.Machine

/-- Settles O16: the command port offers such a pair as overlapping, and that branch of the step is the refusal. -/
theorem overlappingPairIsRefused : Obligations.OverlappingPairIsRefused := by
  intro s v w rest h
  rw [step, fetch_overlap h]

/-- Settles O21: the next state is `stateAfter`, which writes the registers and the outputs only. -/
theorem everyInstructionCompletes : Obligations.EveryInstructionCompletes := fun i s =>
  ⟨stateAfter i.effective s, exec_eq i s, stateAfter_pos _ s, stateAfter_pending _ s, stateAfter_params _ s⟩

end Sys2Proof.Machine
end

section
/-!
The state after construction (R300): RESET fixes it, and no state keeps a register through RESET.
-/

namespace Sys2Proof.Machine

/-- RESET leaves the registers of S0 whatever they held before (R260). -/
theorem info_of_exec_reset {s t : State} (h : exec .reset s = .next t) : t.info = .reset := by
  rw [exec_reset] at h
  cases h
  rfl

/-- Settles O48: the registers after construction are S0, and S0 is what RESET leaves from every state. -/
theorem powerOnIsTheResetState : Obligations.PowerOnIsTheResetState :=
  ⟨exec_reset State.reset, fun _ _ => info_of_exec_reset⟩

end Sys2Proof.Machine
end

section
/-!
Encoding and decoding (R90 to R101): the fields of an encoded word, the words of a decoded group, and the round trips
both ways.
-/

namespace Sys2Proof

/-! ### The fields of an encoded word B -/

section EncodedB0
variable (ver tp : BitVec 1) (pty : BitVec 5) (ta ms : BitVec 1) (seg : BitVec 2)

/-- A group 0 is dispatched by its version bit alone (R92). -/
@[simp] theorem groupRow_encodeB0 : groupRow (encodeB0 ver tp pty ta ms seg) = rowAt ver.toNat := by
  rw [groupRow_eq_rowAt, encodeB0_toNat]
  congr 1
  omega

@[simp] theorem ptyOf_encodeB0 : ptyOf (encodeB0 ver tp pty ta ms seg) = pty := by
  apply BitVec.eq_of_toNat_eq
  rw [ptyOf_toNat, encodeB0_toNat]
  omega

@[simp] theorem segOf_encodeB0 : segOf (encodeB0 ver tp pty ta ms seg) = seg := by
  apply BitVec.eq_of_toNat_eq
  rw [segOf_toNat, encodeB0_toNat]
  omega

end EncodedB0

/-- A flag's bit as a number is the digit 1 exactly when the flag is set. -/
theorem toNat_ofBool_eq_one {f : Bool} : (BitVec.ofBool f).toNat = 1 ↔ f = true := by
  cases f <;> decide

section EncodedFlags
variable (ver : BitVec 1) (tp : Bool) (pty : BitVec 5) (ta ms : Bool) (seg : BitVec 2)

@[simp] theorem tpOf_encodeB0 (ta ms : BitVec 1) : tpOf (encodeB0 ver (BitVec.ofBool tp) pty ta ms seg) = tp := by
  rw [Bool.eq_iff_iff, tpOf, getLsbD_iff, encodeB0_toNat, ← toNat_ofBool_eq_one (f := tp)]
  omega

@[simp] theorem taOf_encodeB0 (tp ms : BitVec 1) : taOf (encodeB0 ver tp pty (BitVec.ofBool ta) ms seg) = ta := by
  rw [Bool.eq_iff_iff, taOf, getLsbD_iff, encodeB0_toNat, ← toNat_ofBool_eq_one (f := ta)]
  omega

@[simp] theorem msOf_encodeB0 (tp ta : BitVec 1) : msOf (encodeB0 ver tp pty ta (BitVec.ofBool ms) seg) = ms := by
  rw [Bool.eq_iff_iff, msOf, getLsbD_iff, encodeB0_toNat, ← toNat_ofBool_eq_one (f := ms)]
  omega

end EncodedFlags

section EncodedB2
variable (ver : BitVec 1) (slot : BitVec 4)

/-- A group 2 is dispatched by its version bit alone (R92). -/
@[simp] theorem groupRow_encodeB2 (ab : BitVec 1) : groupRow (encodeB2 ver ab slot) = rowAt (4 + ver.toNat) := by
  rw [groupRow_eq_rowAt, encodeB2_toNat]
  congr 1
  omega

@[simp] theorem abOf_encodeB2 (ab : Bool) : abOf (encodeB2 ver (BitVec.ofBool ab) slot) = ab := by
  rw [Bool.eq_iff_iff, abOf, getLsbD_iff, encodeB2_toNat, ← toNat_ofBool_eq_one (f := ab)]
  omega

@[simp] theorem slotOf_encodeB2 (ab : BitVec 1) : slotOf (encodeB2 ver ab slot) = slot := by
  apply BitVec.eq_of_toNat_eq
  rw [slotOf_toNat, encodeB2_toNat]
  omega

end EncodedB2

/-! ### The fields of an encoded clock (R96 to R98) -/

section EncodedClock
variable (mjd : BitVec 17) (hour : BitVec 5) (minute : BitVec 6) (ofsHalf : BitVec 5)

@[simp] theorem groupRow_encodeB4 : groupRow (encodeB4 mjd) = .grp4a := by
  have selects : (encodeB4 mjd).toNat / 2048 = 8 := by
    rw [encodeB4_toNat]
    omega
  rw [groupRow_eq_rowAt, selects]
  rfl

@[simp] theorem mjdOf_encode : mjdOf (encodeB4 mjd) (encodeC4 mjd hour) = mjd := by
  apply BitVec.eq_of_toNat_eq
  rw [mjdOf_toNat, encodeB4_toNat, encodeC4_toNat]
  omega

@[simp] theorem hourOf_encode (ofsSign : BitVec 1) :
    hourOf (encodeC4 mjd hour) (encodeD4 hour minute ofsSign ofsHalf) = hour := by
  apply BitVec.eq_of_toNat_eq
  rw [hourOf_toNat, encodeC4_toNat, encodeD4_toNat]
  omega

@[simp] theorem minuteOf_encodeD4 (ofsSign : BitVec 1) : minuteOf (encodeD4 hour minute ofsSign ofsHalf) = minute := by
  apply BitVec.eq_of_toNat_eq
  rw [minuteOf_toNat, encodeD4_toNat]
  omega

@[simp] theorem ofsSignOf_encodeD4 (ofsSign : Bool) :
    ofsSignOf (encodeD4 hour minute (BitVec.ofBool ofsSign) ofsHalf) = ofsSign := by
  rw [Bool.eq_iff_iff, ofsSignOf_iff, encodeD4_toNat, ← toNat_ofBool_eq_one (f := ofsSign)]
  omega

@[simp] theorem ofsHalfOf_encodeD4 (ofsSign : BitVec 1) :
    ofsHalfOf (encodeD4 hour minute ofsSign ofsHalf) = ofsHalf := by
  apply BitVec.eq_of_toNat_eq
  rw [ofsHalfOf_toNat, encodeD4_toNat]
  omega

end EncodedClock

/-! ### A group instruction read back from its words -/

section ReadBack
variable (pi c : Word) (tp : Bool) (pty : BitVec 5) (ta ms ab : Bool) (seg : BitVec 2) (slot : BitVec 4)
  (x y z w : Byte)

theorem decodeGroup_words_grp0a : decodeGroup ⟨pi,
    encodeB0 0 (BitVec.ofBool tp) pty (BitVec.ofBool ta) (BitVec.ofBool ms) seg, x ++ y, z ++ w⟩ =
      .grp0a pi tp pty ta ms seg x y z w := by
  simp [decodeGroup, rowAt]

/-- Word C of a group 0B is ignored (R93). -/
theorem decodeGroup_words_grp0b : decodeGroup ⟨pi,
    encodeB0 1 (BitVec.ofBool tp) pty (BitVec.ofBool ta) (BitVec.ofBool ms) seg, c, x ++ y⟩ =
      .grp0b pi tp pty ta ms seg x y := by
  simp [decodeGroup, rowAt]

theorem decodeGroup_words_grp1a (pin slc : Word) : decodeGroup ⟨pi, 0x1000, pin, slc⟩ = .grp1a pi pin slc := by
  simp only [decodeGroup, show groupRow 0x1000 = .grp1a by decide]

/-- The words C and D of a group 1B are ignored (R94). -/
theorem decodeGroup_words_grp1b (d : Word) : decodeGroup ⟨pi, 0x1800, c, d⟩ = .grp1b pi := by
  simp only [decodeGroup, show groupRow 0x1800 = .grp1b by decide]

/-- The words C and D of a group 4B are ignored (R96). -/
theorem decodeGroup_words_grp4b (d : Word) : decodeGroup ⟨pi, 0x4800, c, d⟩ = .grp4b pi := by
  simp only [decodeGroup, show groupRow 0x4800 = .grp4b by decide]

theorem decodeGroup_words_grp2a : decodeGroup ⟨pi, encodeB2 0 (BitVec.ofBool ab) slot, x ++ y, z ++ w⟩ =
    .grp2a pi ab slot x y z w := by
  simp [decodeGroup, rowAt]

/-- Word C of a group 2B is ignored (R95). -/
theorem decodeGroup_words_grp2b : decodeGroup ⟨pi, encodeB2 1 (BitVec.ofBool ab) slot, c, x ++ y⟩ =
    .grp2b pi ab slot x y := by
  simp [decodeGroup, rowAt]

end ReadBack

theorem decodeGroup_words_grp4a (pi : Word) (mjd : BitVec 17) (hour : BitVec 5) (minute : BitVec 6) (ofsSign : Bool)
    (ofsHalf : BitVec 5) : decodeGroup ⟨pi, encodeB4 mjd, encodeC4 mjd hour,
      encodeD4 hour minute (BitVec.ofBool ofsSign) ofsHalf⟩ = .grp4a pi mjd hour minute ofsSign ofsHalf := by
  simp [decodeGroup]

/-- The word B of a GRPNOP holds its group type, and selects GRPNOP when that type is unsupported (R92, R124). -/
theorem decodeGroup_words_grpnop {gt : BitVec 4} (h : supportedType gt = false) (a c d : Word) :
    decodeGroup ⟨a, gt ++ 0#12, c, d⟩ = .grpnop gt := by
  have type : gtOf (gt ++ 0#12) = gt := BitVec.extractLsb'_append_eq_left
  simp only [supportedType, Bool.or_eq_false_iff, beq_eq_false_iff_ne] at h
  obtain ⟨⟨⟨h0, h1⟩, h2⟩, h4⟩ := h
  have row : groupRow (gt ++ 0#12) = .grpnop := by
    apply Machine.groupRow_of_unsupported <;> rwa [type]
  simp only [decodeGroup, row, type]

/-- Settles O1: each group instruction by the lemma of its words; a command by its CMD field. -/
theorem decodeOfEncodeIsIdentity : Obligations.DecodeOfEncodeIsIdentity := by
  intro i wf
  cases i with
  | grp0a => exact decodeGroup_words_grp0a ..
  | grp0b => exact decodeGroup_words_grp0b ..
  | grp2a => exact decodeGroup_words_grp2a ..
  | grp2b => exact decodeGroup_words_grp2b ..
  | grp4a => exact decodeGroup_words_grp4a ..
  | grpnop gt => exact decodeGroup_words_grpnop (by simpa [Instr.wellFormed] using wf) 0 0 0
  | grp1a => exact decodeGroup_words_grp1a ..
  | grp1b => exact decodeGroup_words_grp1b ..
  | grp4b => exact decodeGroup_words_grp4b ..
  | decode | reset | query | cmdnop => rfl

/-! ### Every encoding is legal -/

/-- The rows of a supported group type are those of its two versions (R92). -/
theorem rowAt_of_supportedType (v : Version) :
    ∀ gt : BitVec 4, supportedType gt = true → rowAt (2 * gt.toNat + v.bit) ≠ .grpnop := by
  cases v <;> decide

/-- The dispatch map selects GRPNOP for an unsupported group type only (R92). -/
theorem supportedType_of_grpnop {b : Word} (h : groupRow b = .grpnop) : supportedType (gtOf b) = false := by
  rw [groupRow_eq_rowAt, selector_eq] at h
  exact Bool.eq_false_iff.mpr fun supported => rowAt_of_supportedType (verOf b) _ supported h

/-- Settles O5: only a GRPNOP could be ill formed, and the dispatch map gives it unsupported types only. -/
theorem everyEncodingDecodesWellFormed : Obligations.EveryEncodingDecodesWellFormed := by
  intro e
  cases e with
  | command w =>
    simp only [decode, decodeCommand]
    split <;> rfl
  | group g =>
    simp only [decode, decodeGroup]
    cases row : groupRow g.b
    case grpnop => simp [Instr.wellFormed, supportedType_of_grpnop row]
    all_goals rfl

end Sys2Proof
end

section
/-!
Encoding what was decoded (R93 to R96, R100, R124): which bits come back, and that no other bit has an effect. Masks are
taken as arithmetic, since every mask of the table clears one run of low bits and reads the ones below it.
-/

namespace Sys2Proof

/-! ### Masks as arithmetic -/

/-- A mask that reads the bits from `k` up and the `j` lowest clears those between. -/
theorem toNat_and_mask (w m : Word) (k j : Nat) (high : m.toNat / 2 ^ k = 2 ^ (16 - k) - 1)
    (low : m.toNat % 2 ^ k = 2 ^ j - 1) (hk : k ≤ 16) :
    (w &&& m).toNat = w.toNat / 2 ^ k * 2 ^ k + w.toNat % 2 ^ k % 2 ^ j := by
  have fits : w.toNat / 2 ^ k < 2 ^ (16 - k) := by
    rw [Nat.div_lt_iff_lt_mul (by positivity), ← pow_add, Nat.sub_add_cancel hk]
    exact w.isLt
  rw [BitVec.toNat_and, ← Nat.div_add_mod' (w.toNat &&& m.toNat) (2 ^ k), Nat.and_div_two_pow, Nat.and_mod_two_pow,
    high, low, Nat.and_two_pow_sub_one_eq_mod, Nat.and_two_pow_sub_one_eq_mod, Nat.mod_eq_of_lt fits]

/-- The full mask reads every bit. -/
theorem and_ffff (w : Word) : w &&& 0xFFFF#16 = w := BitVec.and_allOnes

/-- The bits a group 0 reads of word B: all but B[2] (R93). -/
theorem toNat_and_fffb (b : Word) : (b &&& 0xFFFB#16).toNat = b.toNat / 8 * 8 + b.toNat % 4 := by
  have := toNat_and_mask b 0xFFFB#16 3 2 rfl rfl (by decide)
  omega

/-- The selector B[15:11] (R91). -/
theorem toNat_and_f800 (b : Word) : (b &&& 0xF800#16).toNat = b.toNat / 2048 * 2048 := by
  simpa [Nat.mod_one] using toNat_and_mask b 0xF800#16 11 0 rfl rfl (by decide)

/-- The bits a group 2 reads of word B (R95). -/
theorem toNat_and_f81f (b : Word) : (b &&& 0xF81F#16).toNat = b.toNat / 2048 * 2048 + b.toNat % 32 := by
  have := toNat_and_mask b 0xF81F#16 11 5 rfl rfl (by decide)
  omega

/-- The bits a group 4A reads of word B (R96). -/
theorem toNat_and_f803 (b : Word) : (b &&& 0xF803#16).toNat = b.toNat / 2048 * 2048 + b.toNat % 4 := by
  have := toNat_and_mask b 0xF803#16 11 2 rfl rfl (by decide)
  omega

/-- The group type alone (R124). -/
theorem toNat_and_f000 (b : Word) : (b &&& 0xF000#16).toNat = b.toNat / 4096 * 4096 := by
  simpa [Nat.mod_one] using toNat_and_mask b 0xF000#16 12 0 rfl rfl (by decide)

/-! ### The words put together from the decoded fields -/

/-- A bit of a word as a one-bit field. -/
theorem toNat_ofBool_getLsbD (w : Word) (k : Nat) : (BitVec.ofBool (w.getLsbD k)).toNat = w.toNat / 2 ^ k % 2 := by
  rw [BitVec.getLsbD, Nat.testBit_eq_decide_div_mod_eq]
  rcases Nat.mod_two_eq_zero_or_one (w.toNat / 2 ^ k) with e | e <;> rw [e] <;> rfl

/-- Word B of a group 0, of either version, comes back without B[2]. -/
theorem encodeB0_fields {b : Word} {ver : BitVec 1} (h : b.toNat / 2048 = ver.toNat) :
    encodeB0 ver (BitVec.ofBool (tpOf b)) (ptyOf b) (BitVec.ofBool (taOf b)) (BitVec.ofBool (msOf b)) (segOf b) =
      b &&& 0xFFFB#16 := by
  apply BitVec.eq_of_toNat_eq
  rw [encodeB0_toNat, toNat_and_fffb, tpOf, taOf, msOf]
  simp only [toNat_ofBool_getLsbD, ptyOf_toNat, segOf_toNat]
  omega

/-- Word B of a group 2, of either version, comes back without B[10:5]. -/
theorem encodeB2_fields {b : Word} {ver : BitVec 1} (h : b.toNat / 2048 = 4 + ver.toNat) :
    encodeB2 ver (BitVec.ofBool (abOf b)) (slotOf b) = b &&& 0xF81F#16 := by
  apply BitVec.eq_of_toNat_eq
  rw [encodeB2_toNat, toNat_and_f81f, abOf]
  simp only [toNat_ofBool_getLsbD, slotOf_toNat]
  omega

/-- Word B of a group 4A comes back without B[10:2]. -/
theorem encodeB4_fields {b : Word} (h : b.toNat / 2048 = 8) (c : Word) : encodeB4 (mjdOf b c) = b &&& 0xF803#16 := by
  apply BitVec.eq_of_toNat_eq
  rw [encodeB4_toNat, toNat_and_f803, mjdOf_toNat]
  omega

theorem encodeC4_fields (b c d : Word) : encodeC4 (mjdOf b c) (hourOf c d) = c := by
  apply BitVec.eq_of_toNat_eq
  rw [encodeC4_toNat, mjdOf_toNat, hourOf_toNat]
  omega

theorem encodeD4_fields (c d : Word) :
    encodeD4 (hourOf c d) (minuteOf d) (BitVec.ofBool (ofsSignOf d)) (ofsHalfOf d) = d := by
  apply BitVec.eq_of_toNat_eq
  rw [encodeD4_toNat, hourOf_toNat, minuteOf_toNat, ofsHalfOf_toNat, ofsSignOf, toNat_ofBool_getLsbD]
  omega

/-- A word B of which only the selector is read comes back as its row's fixed word (R94, R96). -/
theorem and_f800_of_selector {b w : Word} (h : b.toNat / 2048 * 2048 = w.toNat) : w = b &&& 0xF800#16 := by
  apply BitVec.eq_of_toNat_eq
  rw [toNat_and_f800, h]

/-- The word B of a GRPNOP comes back as its group type. -/
theorem gtOf_append_zero (b : Word) : (gtOf b ++ 0#12 : Word) = b &&& 0xF000#16 := by
  apply BitVec.eq_of_toNat_eq
  simp only [toNat_append_add, toNat_and_f000, gtOf_toNat, BitVec.toNat_zero, Nat.add_zero, Nat.reducePow]

/-! ### From the row back to the selector -/

/-- A row with a handler stands at one number of the dispatch map only. -/
theorem rowAt_inj {m n : Nat} (h : rowAt n = rowAt m) (handled : rowAt m ≠ .grpnop) : n = m := by
  have below : ∀ {k : Nat}, rowAt k ≠ .grpnop → k < 10 := fun hk =>
    Nat.lt_of_not_le fun ge => hk (rowAt_of_ten_le ge)
  have inj : ∀ a b : Fin 10, rowAt a = rowAt b → rowAt b ≠ .grpnop → a = b := by decide
  exact congrArg Fin.val (inj ⟨n, below (h ▸ handled)⟩ ⟨m, below handled⟩ h handled)

/-- The selector of a word dispatched to a row with a handler (R92). -/
theorem selector_of_groupRow {b : Word} {m : Nat} (h : groupRow b = rowAt m) (handled : rowAt m ≠ .grpnop) :
    b.toNat / 2048 = m :=
  rowAt_inj ((groupRow_eq_rowAt b).symm.trans h) handled

/-- Settles O2: row by row, each word put together from the decoded fields is the word without its ignored bits. -/
theorem encodeOfDecodeClearsIgnoredBits : Obligations.EncodeOfDecodeClearsIgnoredBits := by
  intro g
  have selected (m : Nat) (row : groupRow g.b = rowAt m) (handled : rowAt m ≠ .grpnop) : g.b.toNat / 2048 = m :=
    selector_of_groupRow row handled
  cases row : groupRow g.b <;>
    simp only [decode, decodeGroup, row, encode, GroupWords.readBits, readMask, Encoding.group.injEq,
      GroupWords.mk.injEq, BitVec.ofNat_eq_ofNat, and_ffff, hi8_append_lo8, BitVec.and_zero, true_and, and_true]
  case grp0a => exact encodeB0_fields (ver := 0#1) (selected 0 row (by decide))
  case grp0b => exact encodeB0_fields (ver := 1#1) (selected 1 row (by decide))
  case grp1a => exact and_f800_of_selector (by rw [selected 2 row (by decide)]; rfl)
  case grp1b => exact and_f800_of_selector (by rw [selected 3 row (by decide)]; rfl)
  case grp2a => exact encodeB2_fields (ver := 0#1) (selected 4 row (by decide))
  case grp2b => exact encodeB2_fields (ver := 1#1) (selected 5 row (by decide))
  case grp4a => exact ⟨encodeB4_fields (selected 8 row (by decide)) g.c, encodeC4_fields g.b g.c g.d,
    encodeD4_fields g.c g.d⟩
  case grp4b => exact and_f800_of_selector (by rw [selected 9 row (by decide)]; rfl)
  case grpnop => exact gtOf_append_zero g.b

/-- The bits a group's row reads determine the instruction: it is read back from them alone. -/
theorem decodeGroup_eq_of_readBits {g h : GroupWords} (agree : g.readBits = h.readBits) :
    decodeGroup g = decodeGroup h := by
  have readBack : ∀ g : GroupWords, decode (.group g.readBits) = decodeGroup g := fun g =>
    (congrArg decode (encodeOfDecodeClearsIgnoredBits g)).symm.trans
      (decodeOfEncodeIsIdentity _ (everyEncodingDecodesWellFormed (.group g)))
  rw [← readBack g, agree, readBack h]

/-- Settles O3: the two groups hold the same instruction, and a DECODE does what that instruction does. -/
theorem ignoredBitsHaveNoEffect : Obligations.IgnoredBitsHaveNoEffect := by
  intro g h s agree
  calc Machine.exec g.decodeInstr s
      = .next (Machine.stateAfter (decodeGroup g) s) := Machine.exec_decode g.a g.b g.c g.d s
    _ = .next (Machine.stateAfter (decodeGroup h) s) := by rw [decodeGroup_eq_of_readBits agree]
    _ = Machine.exec h.decodeInstr s := (Machine.exec_decode h.a h.b h.c h.d s).symm

/-! ### The opcode table -/

/-- Every mask of the table reads bits of the selector B[15:11] only. -/
theorem matchesWord_selector (b : Word) : ∀ r ∈ groupRows, r.matchesWord b = r.matchesWord (b &&& 0xF800#16) := by
  have masks : ∀ r ∈ groupRows, 0xF800#16 &&& r.mask = r.mask := by decide
  intro r hr
  rw [TableRow.matchesWord, TableRow.matchesWord, BitVec.and_assoc, masks r hr]

/-- The rows that match a selector: one, that of the dispatch map. -/
theorem rows_matching_selector : ∀ n : Fin 32,
    (groupRows.filter (·.matchesWord (BitVec.ofNat 16 (n * 2048)))).map (·.row) = [rowAt n] := by
  decide

/-- Settles O6: a word's matches are those of its selector, of which there are 32. -/
theorem exactlyOneTableRowMatches : Obligations.ExactlyOneTableRowMatches := by
  intro b
  have small : b.toNat / 2048 < 32 := by omega
  have selector : b &&& 0xF800#16 = BitVec.ofNat 16 (b.toNat / 2048 * 2048) := by
    apply BitVec.eq_of_toNat_eq
    rw [toNat_and_f800, BitVec.toNat_ofNat]
    omega
  have one := rows_matching_selector ⟨_, small⟩
  rw [← selector, ← List.filter_congr (matchesWord_selector b), ← groupRow_eq_rowAt] at one
  exact List.map_eq_singleton_iff.mp one

end Sys2Proof
end

section
/-!
The pseudo-instructions (R103): the words they are written with, shifts and ors of their operands, are the words of the
layouts R93 to R98. Beside them some words written out from those layouts.
-/

namespace Sys2Proof.Machine

/-! ### Words written with shifts and ors, as numbers -/

/-- A field or-ed in below what a word already holds is added to it. -/
theorem toNat_or_of_low (k : Nat) {u v : Word} {m n : Nat} (hu : u.toNat = m) (hv : v.toNat = n)
    (clear : m % 2 ^ k = 0 := by omega) (low : n < 2 ^ k := by omega) : (u ||| v).toNat = m + n := by
  have shifted : u.toNat = (m / 2 ^ k) <<< k := by
    rw [hu, Nat.shiftLeft_eq, Nat.div_mul_cancel (Nat.dvd_of_mod_eq_zero clear)]
  rw [BitVec.toNat_or, shifted, hv, ← Nat.shiftLeft_add_eq_or_of_lt low, ← shifted, hu]

/-- A field shifted to its place in a word, while it fits there. -/
theorem toNat_field_shiftLeft {n : Nat} (x : BitVec n) (k : Nat) (fits : x.toNat * 2 ^ k < 2 ^ 16) :
    (x.setWidth 16 <<< k).toNat = x.toNat * 2 ^ k := by
  have small : x.toNat < 2 ^ 16 := (Nat.le_mul_of_pos_right _ (by positivity)).trans_lt fits
  rw [BitVec.toNat_shiftLeft, BitVec.toNat_setWidth, Nat.shiftLeft_eq, Nat.mod_eq_of_lt small, Nat.mod_eq_of_lt fits]

/-- A field at the low end of a word. -/
theorem toNat_field {n : Nat} (x : BitVec n) (fits : x.toNat < 2 ^ 16) : (x.setWidth 16).toNat = x.toNat := by
  rw [BitVec.toNat_setWidth, Nat.mod_eq_of_lt fits]

/-- A flag at bit `k`. -/
theorem toNat_flagWord_shiftLeft (f : Bool) (k : Nat) (fits : 2 ^ k < 2 ^ 15) :
    (flagWord f <<< k).toNat = (BitVec.ofBool f).toNat * 2 ^ k :=
  toNat_field_shiftLeft _ k (by have := (BitVec.ofBool f).isLt; nlinarith)

/-- Two bytes as R103 writes them are the two bytes of a word (R8). -/
theorem shift_or_byte (x y : Byte) : (x.setWidth 16 <<< 8 ||| y.setWidth 16 : Word) = x ++ y := by
  apply BitVec.eq_of_toNat_eq
  rw [toNat_append_add]
  exact toNat_or_of_low 8 (toNat_field_shiftLeft x 8 (by omega)) (toNat_field y (by omega))

/-- The flags of a group 0 as R103 writes them, as a number. -/
theorem toNat_flagsWord (seg : BitVec 2) (tp : Bool) (pty : BitVec 5) (ta ms : Bool) :
    (flagsWord seg tp pty ta ms).toNat = (BitVec.ofBool tp).toNat * 2 ^ 10 + pty.toNat * 2 ^ 5 +
      (BitVec.ofBool ta).toNat * 2 ^ 4 + (BitVec.ofBool ms).toNat * 2 ^ 3 + seg.toNat := by
  have withPty := toNat_or_of_low 10 (toNat_flagWord_shiftLeft tp 10 (by decide))
    (toNat_field_shiftLeft pty 5 (by omega))
  have withTa := toNat_or_of_low 5 withPty (toNat_flagWord_shiftLeft ta 4 (by decide))
  have withMs := toNat_or_of_low 4 withTa (toNat_flagWord_shiftLeft ms 3 (by decide))
  exact toNat_or_of_low 3 withMs (toNat_field seg (by omega))

/-- The flag and the slot of a group 2 below a selector, as a number. -/
theorem toNat_slotWord {u : Word} (clear : u.toNat % 32 = 0) (ab : Bool) (slot : BitVec 4) :
    (u ||| flagWord ab <<< 4 ||| slot.setWidth 16).toNat =
      u.toNat + (BitVec.ofBool ab).toNat * 2 ^ 4 + slot.toNat := by
  have withAb := toNat_or_of_low 5 (u := u) rfl (toNat_flagWord_shiftLeft ab 4 (by decide))
  exact toNat_or_of_low 4 withAb (toNat_field slot (by omega))

/-! ### The words of the layouts -/

/-- Word B of a group 0A (R93). -/
theorem flagsWord_eq (seg : BitVec 2) (tp : Bool) (pty : BitVec 5) (ta ms : Bool) : flagsWord seg tp pty ta ms =
    encodeB0 0 (BitVec.ofBool tp) pty (BitVec.ofBool ta) (BitVec.ofBool ms) seg := by
  apply BitVec.eq_of_toNat_eq
  rw [toNat_flagsWord, encodeB0_toNat]
  simp only [BitVec.ofNat_eq_ofNat, BitVec.toNat_zero]
  omega

/-- Word B of a group 0B (R93). -/
theorem or_flagsWord_eq (seg : BitVec 2) (tp : Bool) (pty : BitVec 5) (ta ms : Bool) :
    0x0800 ||| flagsWord seg tp pty ta ms =
      encodeB0 1 (BitVec.ofBool tp) pty (BitVec.ofBool ta) (BitVec.ofBool ms) seg := by
  apply BitVec.eq_of_toNat_eq
  rw [toNat_or_of_low 11 (u := 0x0800) rfl (toNat_flagsWord seg tp pty ta ms) rfl, encodeB0_toNat]
  simp only [BitVec.ofNat_eq_ofNat, BitVec.toNat_ofNat]
  omega

/-- Word B of a group 2A (R95). -/
theorem slotWord_a_eq (ab : Bool) (slot : BitVec 4) :
    0x2000 ||| flagWord ab <<< 4 ||| slot.setWidth 16 = encodeB2 0 (BitVec.ofBool ab) slot := by
  apply BitVec.eq_of_toNat_eq
  rw [toNat_slotWord rfl, encodeB2_toNat]
  rfl

/-- Word B of a group 2B (R95). -/
theorem slotWord_b_eq (ab : Bool) (slot : BitVec 4) :
    0x2800 ||| flagWord ab <<< 4 ||| slot.setWidth 16 = encodeB2 1 (BitVec.ofBool ab) slot := by
  apply BitVec.eq_of_toNat_eq
  rw [toNat_slotWord rfl, encodeB2_toNat]
  rfl

section Clock
variable (mjd : BitVec 17) (hour : BitVec 5) (minute : BitVec 6) (sign : Bool) (half : BitVec 5)

/-- Word B of a group 4A (R96). -/
theorem clockWordB_eq : 0x4000 ||| (mjd >>> 15).setWidth 16 = encodeB4 mjd := by
  have top : (mjd >>> 15).toNat = mjd.toNat / 32768 := Nat.shiftRight_eq_div_pow mjd.toNat 15
  have field := toNat_field (mjd >>> 15) (by omega)
  apply BitVec.eq_of_toNat_eq
  rw [encodeB4_toNat, ← top]
  exact toNat_or_of_low 2 (u := 0x4000) rfl field rfl

/-- Word C of a group 4A (R96). -/
theorem clockWordC_eq :
    (mjd &&& 0x7FFF).setWidth 16 <<< 1 ||| (hour >>> 4).setWidth 16 = encodeC4 mjd hour := by
  have low : (mjd &&& 0x7FFF).toNat = mjd.toNat % 32768 := Nat.and_two_pow_sub_one_eq_mod mjd.toNat 15
  have top : (hour >>> 4).toNat = hour.toNat / 16 := Nat.shiftRight_eq_div_pow hour.toNat 4
  apply BitVec.eq_of_toNat_eq
  rw [encodeC4_toNat, ← low, ← top]
  exact toNat_or_of_low 1 (toNat_field_shiftLeft _ 1 (by omega)) (toNat_field _ (by omega))

/-- Word D of a group 4A (R96). -/
theorem clockWordD_eq : (hour &&& 0xF).setWidth 16 <<< 12 ||| minute.setWidth 16 <<< 6 ||| flagWord sign <<< 5 |||
    half.setWidth 16 = encodeD4 hour minute (BitVec.ofBool sign) half := by
  have low : (hour &&& 0xF).toNat = hour.toNat % 16 := Nat.and_two_pow_sub_one_eq_mod hour.toNat 4
  have withMinute := toNat_or_of_low 12 (toNat_field_shiftLeft (hour &&& 0xF) 12 (by omega))
    (toNat_field_shiftLeft minute 6 (by omega))
  have withSign := toNat_or_of_low 6 withMinute (toNat_flagWord_shiftLeft sign 5 (by decide))
  apply BitVec.eq_of_toNat_eq
  rw [encodeD4_toNat, ← low]
  exact toNat_or_of_low 5 withSign (toNat_field half (by omega))

end Clock

/-- Settles O12: the words of each expansion are those of the layouts, which `decodeGroup` reads back. -/
theorem pseudoInstructionsExpand : Obligations.PseudoInstructionsExpand := by
  refine ⟨fun pi seg x y af1 af2 tp pty ta ms => ?_, fun pi seg x y tp pty ta ms => ?_, fun pi ab slot w x y z => ?_,
    fun pi ab slot x y => ?_, fun pi mjd hour minute sign half => ?_⟩
  · simp only [ps0a, Instr.effective, flagsWord_eq, charWord, shift_or_byte, decodeGroup_words_grp0a]
  · simp only [ps0b, Instr.effective, or_flagsWord_eq, charWord, shift_or_byte, decodeGroup_words_grp0b]
  · simp only [rt2a, Instr.effective, slotWord_a_eq, charWord, shift_or_byte, decodeGroup_words_grp2a]
  · simp only [rt2b, Instr.effective, slotWord_b_eq, charWord, shift_or_byte, decodeGroup_words_grp2b]
  · simp only [ct4a, Instr.effective, clockWordB_eq, clockWordC_eq, clockWordD_eq, decodeGroup_words_grp4a]

/-- Settles O10: each word is read field by field. -/
theorem knownWordsDecode : Obligations.KnownWordsDecode :=
  ⟨by decide, by decide, by decide, by decide, by decide, by decide⟩

end Sys2Proof.Machine
end

section
/-!
Command lines (R102): what the reader of lines takes from the line of a command, with or without a comment after it.
-/

namespace Sys2Proof.Machine

/-! ### Digits and operands -/

/-- A digit is read back as its value. -/
theorem hexValue_hexDigit : ∀ x : BitVec 4, hexValue (hexDigit .upper x) = some x := by decide

/-- A word is its four digits. -/
theorem nibbles_append (w : Word) :
    (w.extractLsb' 12 4 ++ w.extractLsb' 8 4 ++ w.extractLsb' 4 4 ++ w.extractLsb' 0 4 : Word) = w := by
  apply BitVec.eq_of_toNat_eq
  simp only [toNat_append_add, BitVec.extractLsb'_toNat, Nat.shiftRight_eq_div_pow]
  omega

/-- The four digits of a word are read back as the word. -/
theorem parseWord_hex4 (w : Word) (rest : List Char) : parseWord (hex4 .upper w ++ rest) = some (w, rest) := by
  simp only [hex4, List.cons_append, List.nil_append, parseWord, hexValue_hexDigit, nibbles_append]

/-- No digit is a space, and none starts a comment. -/
theorem hexDigit_ne : ∀ x : BitVec 4, hexDigit .upper x ≠ ' ' ∧ hexDigit .upper x ≠ ';' := by decide

/-- Spaces are dropped up to the first other character. -/
theorem dropSpaces_cons_of_ne {c : Char} (h : c ≠ ' ') (l : List Char) : dropSpaces (c :: l) = c :: l := by
  simp [dropSpaces, h]

@[simp] theorem dropSpaces_space (l : List Char) : dropSpaces (' ' :: l) = dropSpaces l := by
  simp [dropSpaces]

/-- A word's digits start with no space. -/
@[simp] theorem dropSpaces_hex4 (w : Word) (rest : List Char) :
    dropSpaces (hex4 .upper w ++ rest) = hex4 .upper w ++ rest :=
  dropSpaces_cons_of_ne (hexDigit_ne _).1 _

/-- What stands between two operands is read as such. -/
theorem parseComma_comma (w : Word) (rest : List Char) :
    parseComma (comma ++ (hex4 .upper w ++ rest)) = some (hex4 .upper w ++ rest) := by
  simp [comma, parseComma]

/-- The four operands of a DECODE as they stand on its line (R102). -/
def operandsOf (g : GroupWords) : List Char :=
  hex4 .upper g.a ++ (comma ++ (hex4 .upper g.b ++ (comma ++ (hex4 .upper g.c ++ (comma ++ (hex4 .upper g.d ++ []))))))

/-- The four operands are read back. -/
theorem parseOperands_operandsOf (g : GroupWords) : parseOperands (operandsOf g) = some g := by
  simp [parseOperands, operandsOf, parseWord_hex4, parseComma_comma, -List.append_nil]

/-! ### The line without its comment -/

/-- A line that neither starts nor ends with a space and holds no comment. -/
structure BareLine (l : List Char) : Prop where
  noComment : ∀ c ∈ l, c ≠ ';'
  first     : ∀ rest, dropSpaces (l ++ rest) = l ++ rest
  last      : ∀ rest, dropSpaces (l.reverse ++ rest) = l.reverse ++ rest

/-- Of a bare line with a comment the reader takes the bare line (R102). -/
theorem BareLine.lineBody_comment {l : List Char} (h : BareLine l) (comment : List Char) :
    lineBody (l ++ [' ', ';'] ++ comment) = l := by
  have before : (l ++ [' ', ';'] ++ comment).takeWhile (· != ';') = l ++ [' '] := by
    rw [List.append_assoc, List.takeWhile_append_of_pos fun c hc => bne_iff_ne.mpr (h.noComment c hc)]
    rfl
  rw [lineBody, before, h.first, List.reverse_append, List.reverse_singleton, List.singleton_append, dropSpaces_space]
  simpa using congrArg List.reverse (h.last [])

/-- A bare line is taken whole. -/
theorem BareLine.lineBody_self {l : List Char} (h : BareLine l) : lineBody l = l := by
  have whole : l.takeWhile (· != ';') = l :=
    List.takeWhile_eq_self_iff.mpr fun c hc => bne_iff_ne.mpr (h.noComment c hc)
  have first := h.first []
  have last := h.last []
  rw [List.append_nil] at first last
  rw [lineBody, whole, first, last, List.reverse_reverse]

theorem bareLine_kwReset : BareLine kwReset := ⟨by simp [kwReset], fun _ => rfl, fun _ => rfl⟩
theorem bareLine_kwQuery : BareLine kwQuery := ⟨by simp [kwQuery], fun _ => rfl, fun _ => rfl⟩
theorem bareLine_kwCmdnop : BareLine kwCmdnop := ⟨by simp [kwCmdnop], fun _ => rfl, fun _ => rfl⟩

/-- A word's digits hold no start of a comment. -/
theorem hex4_noComment (w : Word) : ∀ c ∈ hex4 .upper w, c ≠ ';' := by
  simp [hex4, hexDigit_ne]

theorem bareLine_decode (g : GroupWords) : BareLine (kwDecode ++ operandsOf g) where
  noComment := by
    have keyword : ∀ c ∈ kwDecode, c ≠ ';' := by simp [kwDecode]
    have between : ∀ c ∈ comma, c ≠ ';' := by simp [comma]
    simp only [operandsOf, List.append_nil, List.forall_mem_append]
    exact ⟨keyword, hex4_noComment _, between, hex4_noComment _, between, hex4_noComment _, between, hex4_noComment _⟩
  first _ := rfl
  last rest := by
    simp only [operandsOf, hex4, List.reverse_append, List.reverse_cons, List.reverse_nil, List.nil_append,
      List.cons_append]
    exact dropSpaces_cons_of_ne (hexDigit_ne _).1 _

/-! ### The command of a line -/

/-- The command of a line's body is that of any line with this body. -/
theorem parseLine_of_lineBody {l t : List Char} (h : lineBody l = lineBody t) : parseLine l = parseLine t := by
  rw [parseLine, parseLine, h]

/-- The line of a DECODE is read back (R102). -/
theorem parseLine_decode (g : GroupWords) : parseLine (kwDecode ++ operandsOf g) = some ⟨0, g⟩ := by
  have operands : dropSpaces (operandsOf g) = operandsOf g := dropSpaces_hex4 _ _
  rw [parseLine, (bareLine_decode g).lineBody_self, if_neg nofun, if_neg nofun, if_neg nofun, if_pos (by simp)]
  rw [List.drop_left, operands, parseOperands_operandsOf]
  rfl

/-- The line of a command is bare and is read back as the command, whose ignored operand words are zero. -/
theorem lineOf_spec (w : CommandWord) (operands : w.cmd ≠ 0#2 → w.group = .zero) :
    BareLine (lineOf w) ∧ parseLine (lineOf w) = some w := by
  obtain ⟨cmd, g⟩ := w
  match cmd with
  | 0#2 =>
    have line : lineOf ⟨0#2, g⟩ = kwDecode ++ operandsOf g := by
      simp [lineOf, operandsOf]
    rw [line]
    exact ⟨bareLine_decode g, parseLine_decode g⟩
  | 1#2 =>
    cases operands nofun
    exact ⟨bareLine_kwReset, by decide⟩
  | 2#2 =>
    cases operands nofun
    exact ⟨bareLine_kwQuery, by decide⟩
  | 3#2 =>
    cases operands nofun
    exact ⟨bareLine_kwCmdnop, by decide⟩

/-- Settles O13: with a comment the line has the same body. -/
theorem commandLinesReadBack : Obligations.CommandLinesReadBack := by
  intro w comment operands
  obtain ⟨bare, readBack⟩ := lineOf_spec w operands
  refine ⟨readBack, (parseLine_of_lineBody ?_).trans readBack⟩
  rw [bare.lineBody_comment, bare.lineBody_self]

end Sys2Proof.Machine
end

section
/-!
The step and the command stream (R50, R77, R303): what a step can do, said once, and from it the statements about steps
and runs.
-/

namespace Sys2Proof.Machine

/-! ### What a step can do -/

/-- The state after a step that takes the command `w` and leaves the requests `rest`. -/
def stateAfterStep (w : CommandWord) (rest : List HostRequest) (s : State) : State :=
  { stateAfter (decodeCommand w).effective s with pos := s.pos + 1, pending := rest }

@[simp] theorem stateAfterStep_pos (w : CommandWord) (rest : List HostRequest) (s : State) :
    (stateAfterStep w rest s).pos = s.pos + 1 := rfl
@[simp] theorem stateAfterStep_outputs (w : CommandWord) (rest : List HostRequest) (s : State) :
    (stateAfterStep w rest s).outputs = s.outputs ++ outputsOf s.params s.info (decodeCommand w).effective := rfl

/-- A step takes the next command, runs the instruction it decodes to, and counts it. -/
theorem step_issue {s : State} {w : CommandWord} {rest : List HostRequest} (h : s.pending = .issue w :: rest) :
    step s = .next (stateAfterStep w rest s) := by
  rw [step, fetch_issue h]
  simp only [exec_eq, countCompleted_next]
  rfl

/-- A step without a request is that of an idle block (log 4). -/
theorem step_idle {s : State} (h : s.pending = []) : step s = .next s := by
  rw [step, fetch_idle h]

/-- The two ways a step answers a next state: an idle block, or one command taken. -/
theorem step_cases {s t : State} (h : step s = .next t) :
    (s.pending = [] ∧ t = s) ∨ ∃ w rest, s.pending = .issue w :: rest ∧ t = stateAfterStep w rest s := by
  match pending : s.pending with
  | [] =>
    rw [step_idle pending] at h
    exact .inl ⟨rfl, (Host.Outcome.next.inj h).symm⟩
  | .issue w :: rest =>
    rw [step_issue pending] at h
    exact .inr ⟨w, rest, rfl, (Host.Outcome.next.inj h).symm⟩
  | .overlap v w :: rest =>
    rw [overlappingPairIsRefused s v w rest pending] at h
    cases h

/-- Settles O14, by `step_issue`. -/
theorem stepRunsTheDecodedCommand : Obligations.StepRunsTheDecodedCommand := fun _ _ _ h =>
  ⟨_, exec_eq _ _, step_issue h⟩

/-- Settles O17, by `step_idle`. -/
theorem idleStepChangesNothing : Obligations.IdleStepChangesNothing := fun _ => step_idle

/-- Settles O18: the two cases of a step. -/
theorem positionAdvancesByOnePerCommand : Obligations.PositionAdvancesByOnePerCommand := by
  refine ⟨rfl, fun s t h => ?_⟩
  obtain idle | ⟨w, rest, pending, rfl⟩ := step_cases h
  · exact .inl idle
  · exact .inr ⟨w, pending, rfl⟩

/-- Settles O20: neither case of a step writes a parameter. -/
theorem parametersNeverChange : Obligations.ParametersNeverChange := by
  intro s t h
  obtain ⟨-, rfl⟩ | ⟨w, rest, -, rfl⟩ := step_cases h <;> rfl

/-! ### Words of the opcode table -/

/-- The command that carries an encoding runs the instruction of the encoding (R92, R120). -/
theorem effective_commandOf (e : Encoding) : (decodeCommand (commandOf e)).effective = (decode e).effective := by
  cases e with
  | command w => rfl
  | group g => exact (effective_decodeGroup g).symm

/-- Settles O15: the placed command runs what the table word decodes to. -/
theorem fetchWordRunsTheTableInstruction : Obligations.FetchWordRunsTheTableInstruction := by
  intro s nbits w i h
  have decoded : decode (tableEncoding nbits w) = i := by
    unfold decodeTableWord at h
    split at h
    · exact Option.some.inj h
    · cases h
  refine ⟨_, exec_eq i s, ?_⟩
  rw [step_issue (s := s.withFetchWord nbits w) rfl, stateAfterStep, effective_commandOf, decoded]
  rfl

/-! ### Runs -/

/-- An instruction puts at most one record on its port (R52, R53). -/
theorem length_outputsOf_le (p : Params) (i : StationInfo) (j : Instr) : (outputsOf p i j).length ≤ 1 := by
  cases j
  case grp4a =>
    simp only [outputsOf]
    split <;> exact Nat.le_refl 1
  all_goals simp [outputsOf]

/-- A run goes on after a step that answers a next state. -/
theorem run_succ {M : Host.Core} {s t : M.State} (h : M.step s = .next t) (k : Nat) : M.run (k + 1) s = M.run k t := by
  simp only [Host.Core.run, h]

/-- The run of a serialized stream, by induction on the stream: one command is one step (R303). -/
theorem run_of_serialized (stream : List HostRequest) : ∀ s : State, s.pending = stream →
    stream.all HostRequest.isSingle = true →
    ∃ (t : State) (o : List Output), Host.Core.run Sys2Proof.core stream.length s = Host.Outcome.next t ∧
      t.pending = [] ∧ t.pos = s.pos + stream.length ∧ t.outputs = s.outputs ++ o ∧ o.length ≤ stream.length := by
  induction stream with
  | nil => exact fun s pending _ => ⟨s, [], rfl, pending, rfl, (List.append_nil _).symm, Nat.le_refl 0⟩
  | cons request rest ih =>
    intro s pending single
    obtain ⟨first, others⟩ := Bool.and_eq_true_iff.mp (List.all_cons ▸ single)
    cases request with
    | overlap v w => cases first
    | issue w =>
      obtain ⟨t, o, run, done, pos, outputs, few⟩ := ih (stateAfterStep w rest s) rfl others
      refine ⟨t, outputsOf s.params s.info (decodeCommand w).effective ++ o,
        (run_succ (step_issue pending) _).trans run, done, ?_, ?_, ?_⟩
      · rw [pos, stateAfterStep_pos, List.length_cons]
        omega
      · rw [outputs, stateAfterStep_outputs, List.append_assoc]
      · have := length_outputsOf_le s.params s.info (decodeCommand w).effective
        rw [List.length_append, List.length_cons]
        omega

/-- Settles O19, by `run_of_serialized` on the pending requests. -/
theorem serializedStreamRunsToItsEnd : Obligations.SerializedStreamRunsToItsEnd := fun s serialized =>
  run_of_serialized s.pending s rfl serialized

/-! ### QUERY and RESET beside a DECODE -/

/-- Settles O50: the snapshot and a result are functions of the parameters and the registers, which QUERY leaves. -/
theorem queryIsReadOnly : Obligations.QueryIsReadOnly := by
  intro s t h
  rw [exec_query] at h
  cases h
  refine ⟨rfl, ⟨_, _, rfl, exec_query _, rfl⟩, fun a b c d => ?_⟩
  obtain ⟨r, result⟩ := outputsOf_decodeGroup s.params s.info ⟨a, b, c, d⟩
  refine ⟨_, _, r, exec_decode a b c d _, exec_decode a b c d _, rfl, ?_, ?_⟩ <;> rw [stateAfter_outputs, ← result]

/-- Settles O52: RESET answers S0 from every state, and leaves the rest as it is. -/
theorem resetOrdersAgainstDecode : Obligations.ResetOrdersAgainstDecode := fun a b c d s =>
  ⟨⟨_, _, exec_decode a b c d s, exec_reset _, rfl⟩, _, exec_reset s, rfl⟩

end Sys2Proof.Machine
end

section
/-!
Repeats and orders of arrival: a command sent twice leaves the registers of one (R200), and the name is the last
characters of each segment, in whatever order they came (R157).
-/

namespace Sys2Proof.Machine

open Sys2Proof.Claims

/-! ### The same writes twice -/

@[simp] theorem latchPi_latchPi (on : Bool) (a : Word) (i : StationInfo) :
    latchPi on a (latchPi on a i) = latchPi on a i := by
  cases on <;> rfl

/-- Two writes repeated leave the buffer of one round. -/
theorem writeAt_pair_twice {α : Type} {n : Nat} (buf : Vector α n) (i j : Fin n) (x y : α) :
    writeAt (writeAt (writeAt (writeAt buf i x) j y) i x) j y = writeAt (writeAt buf i x) j y := by
  ext k hk
  simp only [getElem_writeAt]
  split_ifs <;> rfl

@[simp] theorem writeSlotA_twice (slot : BitVec 4) (t0 t1 t2 t3 : Byte) (buf : Vector Byte 64) :
    writeSlotA slot t0 t1 t2 t3 (writeSlotA slot t0 t1 t2 t3 buf) = writeSlotA slot t0 t1 t2 t3 buf := by
  ext1 k hk
  simp only [getElem_writeSlotA]
  split_ifs <;> rfl

@[simp] theorem writeSlotB_twice (slot : BitVec 4) (t0 t1 : Byte) (buf : Vector Byte 64) :
    writeSlotB slot t0 t1 (writeSlotB slot t0 t1 buf) = writeSlotB slot t0 t1 buf :=
  writeAt_pair_twice ..

@[simp] theorem group0Common_twice (p : Params) (pi : Word) (tp : Bool) (pty : BitVec 5) (ta ms : Bool) (seg : BitVec 2)
    (ch0 ch1 : Byte) (i : StationInfo) :
    group0Common p pi tp pty ta ms seg ch0 ch1 (group0Common p pi tp pty ta ms seg ch0 ch1 i) =
      group0Common p pi tp pty ta ms seg ch0 ch1 i := by
  cases on : p.piLatch.g0 <;> simp [group0Common, latchPi, on, writeAt_pair_twice, writeAt_writeAt]

/-- The toggle check finds no difference the second time, so the second group 2 clears nothing (R190). -/
theorem group2Info_twice {p : Params} {pi : Word} {ab : Bool} {slot : BitVec 4} {v : Version} {buf : Vector Byte 64}
    (i : StationInfo) :
    group2Info p pi ab slot v buf (group2Info p pi ab slot v buf i) = group2Info p pi ab slot v buf i := by
  cases on : p.piLatch.g2 <;> simp [group2Info, latchPi, on, abToggle_eq, writeAt_writeAt]

@[simp] theorem group2aInfo_twice (p : Params) (pi : Word) (ab : Bool) (slot : BitVec 4) (t0 t1 t2 t3 : Byte)
    (i : StationInfo) : group2aInfo p pi ab slot t0 t1 t2 t3 (group2aInfo p pi ab slot t0 t1 t2 t3 i) =
      group2aInfo p pi ab slot t0 t1 t2 t3 i := by
  have text : (group2aInfo p pi ab slot t0 t1 t2 t3 (group2aInfo p pi ab slot t0 t1 t2 t3 i)).rtBuf =
      (group2aInfo p pi ab slot t0 t1 t2 t3 i).rtBuf := by
    simp
  rw [group2aInfo_eq p pi ab slot t0 t1 t2 t3 (group2aInfo ..), text]
  exact group2Info_twice i

@[simp] theorem group2bInfo_twice (p : Params) (pi : Word) (ab : Bool) (slot : BitVec 4) (t0 t1 : Byte)
    (i : StationInfo) : group2bInfo p pi ab slot t0 t1 (group2bInfo p pi ab slot t0 t1 i) =
      group2bInfo p pi ab slot t0 t1 i := by
  have text : (group2bInfo p pi ab slot t0 t1 (group2bInfo p pi ab slot t0 t1 i)).rtBuf =
      (group2bInfo p pi ab slot t0 t1 i).rtBuf := by
    simp
  rw [group2bInfo_eq p pi ab slot t0 t1 (group2bInfo ..), text]
  exact group2Info_twice i

/-- An instruction repeated leaves the registers of one. -/
theorem infoAfter_twice (p : Params) (i : StationInfo) (j : Instr) :
    infoAfter p (infoAfter p i j) j = infoAfter p i j := by
  cases j
  case grp0a | grp0b => exact group0Common_twice ..
  case grp1a | grp1b | grp4b => exact latchPi_latchPi ..
  case grp2a => exact group2aInfo_twice ..
  case grp2b => exact group2bInfo_twice ..
  case grp4a pi mjd hour minute ofsSign ofsHalf =>
    simp only [infoAfter]
    split
    · simp only [latchPi]
      cases p.piLatch.g4 <;> rfl
    · exact latchPi_latchPi ..
  all_goals rfl

/-- Settles O26, by `infoAfter_twice` for the group instruction the words hold. -/
theorem decodeIsIdempotent : Obligations.DecodeIsIdempotent := by
  intro a b c d s t h
  cases exec_next h
  exact ⟨_, exec_decode a b c d _, infoAfter_twice s.params s.info _⟩

/-! ### The name since the last arrival of each segment -/

/-- The registers hold a segment received with word D = `d`: its flag and its two characters (R150). -/
def HoldsSegment (i : StationInfo) (seg : BitVec 2) (d : Word) : Prop :=
  i.psSeen[seg.toNat] = true ∧ i.psBuf[2 * seg.toNat] = stored (hi8 d) ∧ i.psBuf[2 * seg.toNat + 1] = stored (lo8 d)

/-- A group 0 leaves its own segment held and every other as it was. -/
theorem holdsSegment_after_group0 {g : GroupWords} (h : gtOf g.b = 0#4) (p : Params) (i : StationInfo) (seg : BitVec 2)
    (d : Word) : HoldsSegment (infoAfter p i (decodeGroup g)) seg d ↔
      if segOf g.b = seg then stored (hi8 g.d) = stored (hi8 d) ∧ stored (lo8 g.d) = stored (lo8 d)
      else HoldsSegment i seg d := by
  rw [infoAfter_decodeGroup_of_group0 p i h, HoldsSegment, HoldsSegment]
  simp only [group0Common_psSeen, group0Common_psBuf, getElem_setSegment, getElem_writeSegment, subst_eq_stored]
  by_cases own : segOf g.b = seg
  · simp [own]
  · have apart : seg.toNat ≠ (segOf g.b).toNat := fun e => own (BitVec.eq_of_toNat_eq e).symm
    have before : 2 * seg.toNat ≠ 2 * (segOf g.b).toNat + 1 := by omega
    have after : 2 * seg.toNat + 1 ≠ 2 * (segOf g.b).toNat := by omega
    simp [own, apart, before, after]

/-- The last word of a segment, one more group in the list. -/
theorem lastSegmentWord_concat (gs : List GroupWords) (g : GroupWords) (seg : BitVec 2) :
    lastSegmentWord (gs ++ [g]) seg = if segOf g.b = seg then some g.d else lastSegmentWord gs seg := by
  unfold lastSegmentWord
  by_cases own : segOf g.b = seg <;> simp [List.filter_append, own]

/-- Running a list and one more instruction. -/
theorem runsTo_concat {is : List Instr} {i : Instr} {s t : State} (h : RunsTo (is ++ [i]) s t) :
    ∃ u, RunsTo is s u ∧ exec i u = .next t := by
  induction is generalizing s with
  | nil =>
    obtain ⟨u, first, rfl⟩ := h
    exact ⟨s, rfl, first⟩
  | cons j rest ih =>
    obtain ⟨v, first, others⟩ := h
    obtain ⟨u, run, last⟩ := ih others
    exact ⟨u, ⟨v, first, run⟩, last⟩

/-- After groups 0 from any state, each segment among them is held as it came last (R157). -/
theorem holdsSegment_of_runsTo {s : State} {seg : BitVec 2} {d : Word} (gs : List GroupWords) :
    ∀ t : State, (∀ g ∈ gs, gtOf g.b = 0#4) → RunsTo (gs.map GroupWords.decodeInstr) s t →
      t.params = s.params ∧ (lastSegmentWord gs seg = some d → HoldsSegment t.info seg d) := by
  induction gs using List.reverseRecOn with
  | nil =>
    rintro t - ⟨⟩
    exact ⟨rfl, nofun⟩
  | append_singleton gs g ih =>
    intro t groups0 run
    rw [List.map_append, List.map_singleton] at run
    obtain ⟨u, before, last⟩ := runsTo_concat run
    obtain ⟨params, held⟩ := ih u (fun g' hg' => groups0 g' (List.mem_append_left _ hg')) before
    cases exec_next last
    refine ⟨params, fun word => ?_⟩
    have type := groups0 g (List.mem_append_right _ (List.mem_singleton_self g))
    rw [lastSegmentWord_concat] at word
    refine (holdsSegment_after_group0 type u.params u.info seg d).mpr ?_
    by_cases own : segOf g.b = seg
    · rw [if_pos own] at word ⊢
      cases word
      exact ⟨rfl, rfl⟩
    · rw [if_neg own] at word ⊢
      exact held word

/-- Settles O31: each of the four segments is held as it came last. -/
theorem nameIsOrderIndependent : Obligations.NameIsOrderIndependent := by
  intro s t gs d0 d1 d2 d3 groups0 w0 w1 w2 w3 run
  have held (seg : BitVec 2) (d : Word) := (holdsSegment_of_runsTo (seg := seg) (d := d) gs t groups0 run).2
  have params := (holdsSegment_of_runsTo (seg := 0#2) (d := d0) gs t groups0 run).1
  obtain ⟨seen0, c0, c1⟩ := held 0#2 d0 w0
  obtain ⟨seen1, c2, c3⟩ := held 1#2 d1 w1
  obtain ⟨seen2, c4, c5⟩ := held 2#2 d2 w2
  obtain ⟨seen3, c6, c7⟩ := held 3#2 d3 w3
  have complete : psComplete t.info = true := by
    rw [← Bool.not_eq_false, psComplete_eq_false]
    rintro ⟨k, missing⟩
    match k with
    | 0 => exact absurd seen0 (by simpa using missing)
    | 1 => exact absurd seen1 (by simpa using missing)
    | 2 => exact absurd seen2 (by simpa using missing)
    | 3 => exact absurd seen3 (by simpa using missing)
  have name : t.info.psBuf.toList = [stored (hi8 d0), stored (lo8 d0), stored (hi8 d1), stored (lo8 d1),
      stored (hi8 d2), stored (lo8 d2), stored (hi8 d3), stored (lo8 d3)] := by
    rw [← c0, ← c1, ← c2, ← c3, ← c4, ← c5, ← c6, ← c7]
    apply List.ext_getElem (by simp)
    intro k hk _
    have bound : k < 8 := by simpa using hk
    rw [Vector.getElem_toList]
    interval_cases k <;> rfl
  rw [← params, ← name]
  exact nameReport_eq_some.mpr ⟨complete, rfl⟩

end Sys2Proof.Machine
end

section
/-!
Who writes which registers (R32 to R43, R130, R301): the effect of an instruction on the registers as one case for each
kind of write, and from it the frame of every instruction and what only RESET takes back.
-/

namespace Sys2Proof.Machine

/-! ### The kinds of write -/

/-- How many positions of RT_BUF a slot covers (R73). -/
def slotWidth : Version → Nat
  | .a => 4
  | .b => 2

/-- The text a group 2 writes into: what the toggle check leaves of it (R190, R193). -/
def toggledText (i : StationInfo) (ab : Bool) : Vector Byte 64 :=
  bif abDiffers i.rtAb ab then Vector.replicate 64 0x20#8 else i.rtBuf

/-- What the instruction `j` may leave of the registers `i`, one case for each kind of write. -/
inductive RegisterEffect (p : Params) (i : StationInfo) (j : Instr) : StationInfo → Prop
  /-- QUERY, CMDNOP and GRPNOP (R124, R262, R263). -/
  | unchanged : RegisterEffect p i j i
  /-- RESET (R260). -/
  | reset (isReset : j = .reset) : RegisterEffect p i j .reset
  /-- A group that writes PI at most (R122). -/
  | latch (on : Bool) (a : Word) : RegisterEffect p i j (latchPi on a i)
  /-- A group 0 (R150). -/
  | group0 (isGroup0 : j.isGroup0 = true) (pi : Word) (tp : Bool) (pty : BitVec 5) (ta ms : Bool) (seg : BitVec 2)
      (ch0 ch1 : Byte) : RegisterEffect p i j (group0Common p pi tp pty ta ms seg ch0 ch1 i)
  /-- A group 2, whose text differs from what the toggle check leaves in its own slot only (R191, R192). -/
  | group2 (isGroup2 : j.isGroup2 = true) (pi : Word) {ab : Bool} (flag : j.abFlag = some ab) (slot : BitVec 4)
      (v : Version) (buf : Vector Byte 64)
      (others : ∀ k : Fin 64, k.val / slotWidth v ≠ slot.toNat → buf[k] = (toggledText i ab)[k]) :
      RegisterEffect p i j (group2Info p pi ab slot v buf i)
  /-- A group 4A past the MJD > 0 gate (R231, R235). -/
  | clock (setsClock : j.setsClock = true) (on : Bool) (a : Word) {mjd : BitVec 17} (positive : 0 < mjd.toNat)
      (hour : BitVec 5) (minute : BitVec 6) (ofsSign : Bool) (ofsHalf : BitVec 5) :
      RegisterEffect p i j { latchPi on a i with clkValid := true, clk := clockOf p mjd hour minute ofsSign ofsHalf }

/-- Every instruction has one of these effects. -/
theorem registerEffect (p : Params) (i : StationInfo) (j : Instr) : RegisterEffect p i j (infoAfter p i j) := by
  cases j with
  | decode | query | cmdnop | grpnop => exact .unchanged
  | reset => exact .reset rfl
  | grp0a | grp0b => exact .group0 rfl ..
  | grp1a | grp1b | grp4b => exact .latch ..
  | grp2a pi ab slot t0 t1 t2 t3 =>
    rw [infoAfter, group2aInfo_eq]
    refine .group2 rfl pi rfl slot .a _ fun k other => ?_
    simp only [slotWidth] at other
    rw [group2aInfo_rtBuf, Fin.getElem_fin, getElem_writeSlotA, if_neg (by omega), if_neg (by omega), if_neg (by omega),
      if_neg (by omega)]
    rfl
  | grp2b pi ab slot t0 t1 =>
    rw [infoAfter, group2bInfo_eq]
    refine .group2 rfl pi rfl slot .b _ fun k other => ?_
    simp only [slotWidth] at other
    rw [group2bInfo_rtBuf, Fin.getElem_fin, getElem_writeSlotB, if_neg (by omega), if_neg (by omega)]
    rfl
  | grp4a pi mjd hour minute ofsSign ofsHalf =>
    rw [infoAfter]
    split
    case isTrue positive => exact .clock (by exact decide_eq_true positive) _ _ positive ..
    case isFalse => exact .latch ..

section Group2Info
variable (p : Params) (pi : Word) (ab : Bool) (slot : BitVec 4) (v : Version) (buf : Vector Byte 64) (i : StationInfo)

@[simp] theorem group2Info_psBuf : (group2Info p pi ab slot v buf i).psBuf = i.psBuf := by simp [group2Info]
@[simp] theorem group2Info_psSeen : (group2Info p pi ab slot v buf i).psSeen = i.psSeen := by simp [group2Info]
@[simp] theorem group2Info_rtBuf : (group2Info p pi ab slot v buf i).rtBuf = buf := rfl
@[simp] theorem group2Info_rtSeen : (group2Info p pi ab slot v buf i).rtSeen =
    writeAt (bif abDiffers i.rtAb ab then Vector.replicate 16 false else i.rtSeen) (slotIndex slot) true := by
  simp [group2Info]
@[simp] theorem group2Info_rtAb : (group2Info p pi ab slot v buf i).rtAb = some ab := rfl
@[simp] theorem group2Info_rtVer : (group2Info p pi ab slot v buf i).rtVer = some v := rfl
@[simp] theorem group2Info_clkValid : (group2Info p pi ab slot v buf i).clkValid = i.clkValid := by simp [group2Info]
@[simp] theorem group2Info_clk : (group2Info p pi ab slot v buf i).clk = i.clk := by simp [group2Info]

theorem sameTuning_group2Info : SameTuning i (group2Info p pi ab slot v buf i) := by
  simp [SameTuning, group2Info]

end Group2Info

/-! ### The frame of an instruction -/

section Frame
variable {p : Params} {i i' : StationInfo} {j : Instr} (effect : RegisterEffect p i j i') (notReset : j ≠ .reset)
include effect notReset

/-- PTY, the flags and the name are written by groups 0 only. -/
theorem RegisterEffect.sameTuning_sameName (other : j.isGroup0 = false) : SameTuning i i' ∧ SameName i i' := by
  cases effect with
  | reset isReset => exact absurd isReset notReset
  | group0 isGroup0 => exact absurd isGroup0 (ne_true_of_eq_false other)
  | group2 => exact ⟨sameTuning_group2Info .., group2Info_psBuf .., group2Info_psSeen ..⟩
  | unchanged | latch | clock => exact ⟨⟨rfl, rfl, rfl, rfl⟩, rfl, rfl⟩

/-- The text is written by groups 2 only. -/
theorem RegisterEffect.sameText (other : j.isGroup2 = false) : SameText i i' := by
  cases effect with
  | reset isReset => exact absurd isReset notReset
  | group2 isGroup2 => exact absurd isGroup2 (ne_true_of_eq_false other)
  | unchanged | latch | group0 | clock => exact ⟨rfl, rfl, rfl, rfl⟩

/-- The clock is written by a group 4A with MJD > 0 only. -/
theorem RegisterEffect.sameClock (other : j.setsClock = false) : SameClock i i' := by
  cases effect with
  | reset isReset => exact absurd isReset notReset
  | clock setsClock => exact absurd setsClock (ne_true_of_eq_false other)
  | group2 => exact ⟨group2Info_clkValid .., group2Info_clk ..⟩
  | unchanged | latch | group0 => exact ⟨rfl, rfl⟩

end Frame

/-- What runs is RESET only under the command RESET. -/
theorem effective_ne_reset {i : Instr} (h : i ≠ .reset) : i.effective ≠ .reset := by
  cases i with
  | decode a b c d =>
    rw [Instr.effective, decodeGroup]
    cases groupRow b <;> exact nofun
  | reset => exact absurd rfl h
  | _ => exact nofun

/-- The mnemonic GRPNOP has one constructor. -/
theorem eq_grpnop_of_mnemonic {j : Instr} (h : j.mnemonic = "GRPNOP") : ∃ gt, j = .grpnop gt := by
  cases j
  case grpnop gt => exact ⟨gt, rfl⟩
  all_goals simp [Instr.mnemonic] at h

/-- Settles O53: the frame of each kind of write, and the three instructions that write nothing. -/
theorem eachGroupWritesItsOwnFields : Obligations.EachGroupWritesItsOwnFields := by
  intro i s t notReset h
  cases exec_next h
  have effect := registerEffect s.params s.info i.effective
  have runsNoReset := effective_ne_reset notReset
  refine ⟨effect.sameTuning_sameName runsNoReset, effect.sameText runsNoReset, effect.sameClock runsNoReset, ?_⟩
  rintro (rfl | rfl | grpnop)
  · rfl
  · rfl
  · obtain ⟨gt, runs⟩ := eq_grpnop_of_mnemonic grpnop
    rw [stateAfter_info, runs]
    rfl

/-! ### What only RESET takes back -/

/-- The flag of a group 2 flips exactly when the toggle check finds a difference (R190). -/
theorem flips_eq_abDiffers {j : Instr} {ab : Bool} (flag : j.abFlag = some ab) (recorded : Option Bool) :
    j.flips recorded = abDiffers recorded ab := by
  cases recorded <;> simp only [Instr.flips, flag, abDiffers]

/-- A set bit stays set by a write of 1. -/
theorem writeAt_true_keeps {n : Nat} {seen : Vector Bool n} {k : Fin n} (h : seen[k] = true) (i : Fin n) :
    (writeAt seen i true)[k] = true := by
  rw [getFin_writeAt, h, ite_self]

/-- A bit that is clear after a write of 1 was clear before. -/
theorem getElem_of_writeAt_true {n : Nat} {seen : Vector Bool n} {k i : Fin n} (h : (writeAt seen i true)[k] = false) :
    seen[k] = false := by
  by_contra set
  rw [writeAt_true_keeps (Bool.not_eq_false _ ▸ set)] at h
  cases h

/-- A bit lost by a write of 1 was lost to the clear before it. -/
theorem clear_of_lost {n : Nat} {seen : Vector Bool n} {clear : Bool} {k i : Fin n} (was : seen[k] = true)
    (lost : (writeAt (bif clear then Vector.replicate n false else seen) i true)[k] = false) : clear = true := by
  cases clear with
  | false => exact absurd was (ne_true_of_eq_false (getElem_of_writeAt_true lost))
  | true => rfl

/-- After a clear the flag written is the only one set. -/
theorem getElem_writeAt_cleared {n : Nat} {seen : Vector Bool n} {clear : Bool} (h : clear = true) (i k : Fin n) :
    (writeAt (bif clear then Vector.replicate n false else seen) i true)[k] = true ↔ k = i := by
  rw [getFin_writeAt, h]
  by_cases own : i = k
  · simp [own]
  · simp [own, Ne.symm own]

/-- Settles O54: each effect but RESET's keeps what is set, but for a group 2 whose flag flips. -/
theorem completionFallsOnlyByResetOrToggle : Obligations.CompletionFallsOnlyByResetOrToggle := by
  intro i s t notReset h
  cases exec_next h
  rw [stateAfter_info]
  have kept (k : Fin 16) : ¬ (s.info.rtSeen[k] = true ∧ s.info.rtSeen[k] = false) := by simp
  have effect := registerEffect s.params s.info i.effective
  generalize infoAfter s.params s.info i.effective = after at effect ⊢
  cases effect with
  | reset isReset => exact absurd isReset (effective_ne_reset notReset)
  | unchanged | latch => exact ⟨fun _ => id, id, id, id, fun ⟨k, lost⟩ => absurd lost (kept k)⟩
  | group0 => exact ⟨fun k seen => writeAt_true_keeps seen _, id, id, id, fun ⟨k, lost⟩ => absurd lost (kept k)⟩
  | clock => exact ⟨fun _ => id, fun _ => rfl, id, id, fun ⟨k, lost⟩ => absurd lost (kept k)⟩
  | group2 _ _ flag slot =>
    simp only [group2Info_psSeen, group2Info_clkValid, group2Info_rtAb, group2Info_rtVer, group2Info_rtSeen]
    refine ⟨fun _ => id, id, fun _ => rfl, fun _ => rfl, fun ⟨k, was, lost⟩ => ?_⟩
    rw [flips_eq_abDiffers flag]
    have differs := clear_of_lost was lost
    exact ⟨differs, slotIndex slot, getElem_writeAt_cleared differs _⟩

end Sys2Proof.Machine
end

section
/-!
What reports and registers depend on (R40, R43, R197 to R199): the carriage return that never comes, what a flip leaves,
the half of the buffer a 2B report reads, the first flag, the absent clock.
-/

namespace Sys2Proof.Machine

open Sys2Proof.Claims

/-! ### The cut at a carriage return -/

/-- Without a carriage return nothing is cut (R197). -/
theorem cutCR_of_not_mem {l : List Byte} (h : 0x0D#8 ∉ l) : cutCR l = l :=
  List.takeWhile_eq_self_iff.mpr fun _ hx => bne_iff_ne.mpr (ne_of_mem_of_not_mem hx h)

/-- The first carriage return cuts off what follows (R197). -/
theorem cutCR_append {u : List Byte} (v : List Byte) (h : 0x0D#8 ∉ u) : cutCR (u ++ 0x0D#8 :: v) = u := by
  rw [cutCR, List.takeWhile_append_of_pos fun _ hx => bne_iff_ne.mpr (ne_of_mem_of_not_mem hx h)]
  exact List.append_nil u

/-- A buffer of printable codes lists printable codes. -/
theorem le_of_mem_toList {n : Nat} {buf : Vector Byte n} (printable : ∀ k : Fin n, 0x20#8 ≤ buf[k]) {x : Byte}
    (h : x ∈ buf.toList) : 0x20#8 ≤ x := by
  obtain ⟨k, hk, rfl⟩ := List.getElem_of_mem h
  rw [Vector.length_toList] at hk
  simpa using printable ⟨k, hk⟩

/-- Settles O38: no printable code is a carriage return. -/
theorem carriageReturnNeverCuts : Obligations.CarriageReturnNeverCuts := by
  refine ⟨fun _ => cutCR_of_not_mem, fun _ v => cutCR_append v, fun p i n inv => cutCR_of_not_mem fun cr => ?_⟩
  exact absurd (le_of_mem_toList inv.rtPrintable (List.mem_of_mem_take cr)) (by decide)

/-! ### What a flip leaves -/

/-- Settles O39: the changed flag is a new message, at which `decodeGroup2_spec` clears every slot but its
own. -/
theorem oldTextNeverSurvivesFlip : Obligations.OldTextNeverSurvivesFlip := by
  intro a b c d s t x type recorded changed run
  have new : NewMessage s (abOf b) := ⟨x, recorded, changed⟩
  obtain ⟨t', run', registers, -, othersA, othersB, -⟩ := decodeGroup2_spec type a c d s
  cases run.symm.trans run'
  obtain ⟨-, -, own, cleared, -⟩ := registers
  refine ⟨fun k => ⟨fun seen => ?_, own k⟩, fun v k other => (othersA v).1 k other new,
    fun v k other => (othersB v).1 k other new⟩
  by_contra other
  exact absurd seen (ne_true_of_eq_false (cleared k other new))

/-! ### What a report reads -/

/-- A report is determined by the slots that count and the positions it covers (R194 to R196). -/
theorem textReport_congr {p : Params} {i j : StationInfo} {v : Version}
    (slots : countedSlots p i v = countedSlots p j v)
    (text : i.rtBuf.toList.take (rtLen v) = j.rtBuf.toList.take (rtLen v)) : textReport p i v = textReport p j v := by
  have ready : rtReady p i v = rtReady p j v := by
    rw [Bool.eq_iff_iff, rtReady_iff, rtReady_iff, slots]
  unfold textReport rtAssembled
  rw [ready, text]

/-- Registers with the same text and slot flags have the same report. -/
theorem textReport_of_sameText {p : Params} {i j : StationInfo} {v : Version} (text : i.rtBuf = j.rtBuf)
    (slots : i.rtSeen = j.rtSeen) : textReport p i v = textReport p j v :=
  textReport_congr (by simp only [countedSlots, slots]) (by rw [text])

/-- The first `m` elements of two buffers that agree below `m`. -/
theorem take_toList_congr {n m : Nat} {buf buf' : Vector Byte n} (agree : ∀ k : Fin n, k.val < m → buf[k] = buf'[k]) :
    buf.toList.take m = buf'.toList.take m := by
  apply List.ext_getElem (by simp)
  intro k hk _
  simp only [List.length_take, Vector.length_toList, Nat.lt_min] at hk
  simpa using agree ⟨k, hk.2⟩ hk.1

/-- Settles O40: the positions by `take_toList_congr`, the slots one by one. -/
theorem versionBReportReadsItsHalf : Obligations.VersionBReportReadsItsHalf := by
  intro p i j text slots
  refine textReport_congr ?_ (take_toList_congr text)
  refine congrArg List.length (List.filter_congr fun k _ => ?_)
  by_cases counts : p.rtCountWindow = .allSlots ∨ k.val < 8
  · rw [slots k counts]
  · rw [not_or] at counts
    simp [expectedSlots, counts]

/-! ### The first flag -/

/-- On clear text the toggle check does the same whatever flag is recorded (R40, R190). -/
theorem abToggle_of_clear {i : StationInfo} (text : i.rtBuf = Vector.replicate 64 0x20#8)
    (slots : i.rtSeen = Vector.replicate 16 false) (ab : Bool) : abToggle ab i = { i with rtAb := some ab } := by
  rw [abToggle_eq, text, slots]
  cases abDiffers i.rtAb ab <;> simp [← text, ← slots]

section FirstFlag
variable {i : StationInfo} (text : i.rtBuf = Vector.replicate 64 0x20#8)
  (slots : i.rtSeen = Vector.replicate 16 false) (x y : Option Bool) (p : Params)
include text slots

/-- On clear text the toggle check leaves the same registers whatever flag was recorded. -/
theorem abToggle_latchPi_of_clear (ab on : Bool) (pi : Word) :
    abToggle ab (latchPi on pi { i with rtAb := x }) = abToggle ab (latchPi on pi { i with rtAb := y }) := by
  have recorded (z : Option Bool) := abToggle_of_clear (i := latchPi on pi { i with rtAb := z }) text slots ab
  rw [recorded x, recorded y]
  rfl

theorem group2aInfo_of_clear (pi : Word) (ab : Bool) (slot : BitVec 4) (t0 t1 t2 t3 : Byte) :
    group2aInfo p pi ab slot t0 t1 t2 t3 { i with rtAb := x } =
      group2aInfo p pi ab slot t0 t1 t2 t3 { i with rtAb := y } := by
  rw [group2aInfo, abToggle_latchPi_of_clear text slots x y, group2aInfo]

theorem group2bInfo_of_clear (pi : Word) (ab : Bool) (slot : BitVec 4) (t0 t1 : Byte) :
    group2bInfo p pi ab slot t0 t1 { i with rtAb := x } = group2bInfo p pi ab slot t0 t1 { i with rtAb := y } := by
  rw [group2bInfo, abToggle_latchPi_of_clear text slots x y, group2bInfo]

/-- The registers after any instruction differ in RT_AB only. -/
theorem infoAfter_of_clear (j : Instr) :
    { infoAfter p { i with rtAb := y } j with rtAb := (infoAfter p { i with rtAb := x } j).rtAb } =
      infoAfter p { i with rtAb := x } j := by
  cases j
  case grp2a => rw [infoAfter, infoAfter, group2aInfo_of_clear text slots x y]
  case grp2b => rw [infoAfter, infoAfter, group2bInfo_of_clear text slots x y]
  case grp4a => simp only [infoAfter]; split <;> rfl
  all_goals rfl

/-- The records differ in the snapshot's raw flag only. -/
theorem outputsOf_of_clear (j : Instr) : (outputsOf p { i with rtAb := x } j).map withoutRawFlag =
    (outputsOf p { i with rtAb := y } j).map withoutRawFlag := by
  cases j
  case grp2a => rw [outputsOf, outputsOf, group2aInfo_of_clear text slots x y]
  case grp2b => rw [outputsOf, outputsOf, group2bInfo_of_clear text slots x y]
  all_goals rfl

/-- A group 2 does exactly the same. -/
theorem group2_of_clear {j : Instr} (h : j.isGroup2 = true) :
    infoAfter p { i with rtAb := x } j = infoAfter p { i with rtAb := y } j ∧
      outputsOf p { i with rtAb := x } j = outputsOf p { i with rtAb := y } j := by
  cases j
  case grp2a => simp only [infoAfter, outputsOf, group2aInfo_of_clear text slots x y, and_self]
  case grp2b => simp only [infoAfter, outputsOf, group2bInfo_of_clear text slots x y, and_self]
  all_goals cases h

end FirstFlag

/-- Settles O41, by what the registers and the records are on clear text. -/
theorem firstFlagShowsInRawViewOnly : Obligations.FirstFlagShowsInRawViewOnly := by
  intro i s x y textClear slotsClear
  have text : s.info.rtBuf = Vector.replicate 64 0x20#8 := Vector.ext fun k hk => by
    simpa using textClear ⟨k, hk⟩
  have slots : s.info.rtSeen = Vector.replicate 16 false := Vector.ext fun k hk => by
    simpa using slotsClear ⟨k, hk⟩
  refine ⟨⟨_, _, _, _, exec_eq i _, exec_eq i _, rfl, rfl, ?_, ?_⟩, fun isGroup2 => ?_⟩
  · exact outputsOf_of_clear text slots x y s.params i.effective
  · exact infoAfter_of_clear text slots x y s.params i.effective
  · obtain ⟨registers, records⟩ := group2_of_clear text slots x y s.params isGroup2
    rw [exec_eq, exec_eq]
    simp only [stateAfter, registers, records]

/-! ### The absent clock -/

section AbsentClock
variable (p : Params) (i : StationInfo) (c : ClockRec) (j : Instr)

/-- The registers after any instruction depend on the clock fields in these fields only. -/
theorem infoAfter_clk :
    { infoAfter p { i with clk := c } j with clk := (infoAfter p i j).clk } = infoAfter p i j := by
  cases j
  case grp2a => simp [infoAfter, group2aInfo, abToggle_eq, latchPi]
  case grp2b => simp [infoAfter, group2bInfo, abToggle_eq, latchPi]
  case grp4a => simp only [infoAfter]; split <;> rfl
  all_goals rfl

/-- No record shows the clock fields while CLK_VALID is 0 (R43). -/
theorem outputsOf_clk (absent : i.clkValid = false) : outputsOf p { i with clk := c } j = outputsOf p i j := by
  cases j
  case query => simp only [outputsOf, snapshotOf, absent]; rfl
  case grp2a | grp2b =>
    refine congrArg (fun rt => [Output.result { DecodedFields.empty with rt := rt }]) (textReport_of_sameText ?_ ?_) <;>
      simp
  all_goals rfl

/-- A clock that becomes valid has its fields from the instruction. -/
theorem infoAfter_clk_of_valid (absent : i.clkValid = false) (valid : (infoAfter p i j).clkValid = true) :
    (infoAfter p { i with clk := c } j).clk = (infoAfter p i j).clk := by
  cases j
  case grp4a =>
    simp only [infoAfter] at valid ⊢
    split at valid
    case isTrue positive => rw [if_pos positive, if_pos positive]
    case isFalse => exact absurd valid (ne_true_of_eq_false absent)
  case grp2a | grp2b => simp [infoAfter, absent] at valid
  case reset => rfl
  all_goals exact absurd valid (ne_true_of_eq_false absent)

end AbsentClock

/-- Settles O46, by what the registers and the records are without a clock. -/
theorem absentClockIsUnobservable : Obligations.AbsentClockIsUnobservable := by
  intro i s c absent
  refine ⟨_, _, exec_eq i _, exec_eq i _, ?_, infoAfter_clk s.params s.info c i.effective,
    infoAfter_clk_of_valid s.params s.info c i.effective absent⟩
  exact congrArg (s.outputs ++ ·) (outputsOf_clk s.params s.info c i.effective absent)

end Sys2Proof.Machine
end

section
/-!
Dates (R232, R233, R237): the two forms of the default formula, the Gregorian law it meets from 1900-03-01 to
2100-02-28, and the date string. A year is counted from its March, as the formula counts it, so that the leap day comes last.
-/

namespace Sys2Proof.Machine

/-! ### The two forms of the formula -/

/-- Truncating a quotient of integers is their truncated division. -/
theorem truncRat_div (a : Int) {b : Int} (hb : 0 < b) : truncRat ((a : Rat) / b) = Int.tdiv a b := by
  have hq : (0 : Int) < ((a : Rat) / b).den := by exact_mod_cast ((a : Rat) / b).den_pos
  have cross : ((a : Rat) / b).num * b = a * ((a : Rat) / b).den := by
    have same : (((a : Rat) / b).num : Rat) / ((a : Rat) / b).den = a / b := Rat.num_div_den _
    rw [div_eq_div_iff (by exact_mod_cast hq.ne') (by exact_mod_cast hb.ne')] at same
    exact_mod_cast same
  rw [truncRat, ← Int.mul_tdiv_mul_of_pos_left _ _ hb, cross, mul_comm _ b, Int.mul_tdiv_mul_of_pos_left _ _ hq]

/-- Each truncation of the rational form is a division of the integer form. -/
theorem rdsDateRat_eq (mjd : Int) : rdsDateRat mjd = rdsDate mjd := by
  have year : truncRat ((mjd - 15078.2) / 365.25) = mjdYear mjd := by
    rw [mjdYear, ← truncRat_div _ (by decide)]
    congr 1
    push_cast
    ring
  have yearDays : truncRat (mjdYear mjd * 365.25) = mjdYearDays mjd := by
    rw [mjdYearDays, ← truncRat_div _ (by decide)]
    congr 1
    push_cast
    ring
  have month : truncRat ((mjd - 14956.1 - mjdYearDays mjd) / 30.6001) = mjdMonth mjd := by
    rw [mjdMonth, ← truncRat_div _ (by decide)]
    congr 1
    push_cast
    ring
  have monthDays : truncRat (mjdMonth mjd * 30.6001) = mjdMonthDays mjd := by
    rw [mjdMonthDays, ← truncRat_div _ (by decide)]
    congr 1
    push_cast
    ring
  simp only [rdsDateRat, year, yearDays, month, monthDays]
  rfl

/-- Settles O45: the forms agree on every integer; the listed values are computed. -/
theorem dateFormulaFormsAgree : Obligations.DateFormulaFormsAgree :=
  ⟨fun mjd => ⟨rdsDateRat_eq _, rfl⟩, by decide, by decide, by decide, by decide⟩

/-! ### Days counted from March -/

/-- Day `d` of the month the formula numbers `m` (4 for March to 15 for February) of the year from March `1900 + y`. -/
def marchDate (y m d : Int) : Date := ⟨1900 + y + mjdCarry m, m - 1 - 12 * mjdCarry m, d⟩

/-- The length of that month in the Gregorian calendar. -/
def marchLength (y m : Int) : Int := monthDays (marchDate y m 1).year (marchDate y m 1).month

/-- The days before that year, as the formula counts them, less the leap day 1900 does not have. -/
def yearStart (y : Int) : Int := 365 * y + y / 4 + if y < 0 then 1 else 0

/-- The days before that month in its year, as the formula counts them. -/
def monthStart (m : Int) : Int := 306001 * m / 10000

/-- The formula counts day `d` of month `m` of year `y` as MJD `n`. -/
structure MarchDay (n y m d : Int) : Prop where
  month : 4 ≤ m ∧ m ≤ 15
  day   : 1 ≤ d ∧ d ≤ marchLength y m
  mjd   : n = 14956 + yearStart y + monthStart m + d

/-- Every month has at least 28 days. -/
theorem le_marchLength (y m : Int) : 28 ≤ marchLength y m := by
  unfold marchLength monthDays
  split_ifs <;> decide

/-- The day after within a month. -/
theorem nextDay_marchDate {y m d : Int} (h : d < marchLength y m) : nextDay (marchDate y m d) = marchDate y m (d + 1) :=
  if_pos h

/-- The day after the last of a month. -/
theorem nextDay_of_last {d : Date} (last : d.day = monthDays d.year d.month) : nextDay d =
    if d.month < 12 then ⟨d.year, d.month + 1, 1⟩ else ⟨d.year + 1, 1, 1⟩ :=
  if_neg last.not_lt

/-- The day after the last of a month but February. -/
theorem nextDay_marchDate_month {y m : Int} (first : 4 ≤ m) (last : m < 15) :
    nextDay (marchDate y m (marchLength y m)) = marchDate y (m + 1) 1 := by
  rw [nextDay_of_last rfl]
  interval_cases m <;> simp [marchDate, mjdCarry]

/-- The day after the last of February. -/
theorem nextDay_marchDate_year (y : Int) :
    nextDay (marchDate y 15 (marchLength y 15)) = marchDate (y + 1) 4 1 := by
  rw [nextDay_of_last rfl]
  simp [marchDate, mjdCarry, add_assoc]

/-- The formula's months have the calendar's lengths, but for February. -/
theorem monthStart_succ (y : Int) {m : Int} (first : 4 ≤ m) (last : m < 15) :
    monthStart (m + 1) = monthStart m + marchLength y m := by
  interval_cases m <;> simp [monthStart, marchLength, marchDate, mjdCarry, monthDays]

/-- February has 28 days, and 29 in the leap years: every fourth from 1859 to 2100 but 1900 and 2100. -/
theorem marchLength_february {y : Int} (h : -42 ≤ y) (h' : y ≤ 199) :
    marchLength y 15 = if y % 4 = 3 ∧ y ≠ -1 ∧ y ≠ 199 then 29 else 28 := by
  have leap : leapYear (1900 + y + 1) = true ↔ y % 4 = 3 ∧ y ≠ -1 ∧ y ≠ 199 := by
    simp only [leapYear, Bool.and_eq_true, Bool.or_eq_true, beq_iff_eq, bne_iff_ne]
    omega
  exact if_congr leap rfl rfl

/-- The formula's years have the calendar's lengths. -/
theorem yearStart_succ {y : Int} (h : -42 ≤ y) (h' : y ≤ 198) :
    yearStart (y + 1) + monthStart 4 = yearStart y + monthStart 15 + marchLength y 15 := by
  have february := marchLength_february h (by omega)
  simp only [yearStart, monthStart, Int.reduceMul, Int.reduceDiv]
  split_ifs at * <;> omega

/-! ### The law of R232 -/

/-- The day after a day the formula counts is the next day it counts. -/
theorem MarchDay.next {n y m d : Int} (h : MarchDay n y m d) (first : -42 ≤ y) (last : n < 88127) :
    ∃ y' m' d', MarchDay (n + 1) y' m' d' ∧ -42 ≤ y' ∧ nextDay (marchDate y m d) = marchDate y' m' d' := by
  obtain ⟨⟨m1, m2⟩, ⟨d1, d2⟩, mjd⟩ := h
  rcases d2.lt_or_eq with within | rfl
  · exact ⟨y, m, d + 1, ⟨⟨m1, m2⟩, ⟨by omega, by omega⟩, by omega⟩, first, nextDay_marchDate within⟩
  rcases m2.lt_or_eq with within | rfl
  · have start := monthStart_succ y m1 within
    have := le_marchLength y (m + 1)
    exact ⟨y, m + 1, 1, ⟨⟨by omega, by omega⟩, ⟨le_refl 1, by omega⟩, by omega⟩, first,
      nextDay_marchDate_month m1 within⟩
  · have inRange : y ≤ 198 := by
      have := le_marchLength y 15
      have february : monthStart 15 = 459 := rfl
      unfold yearStart at mjd
      split_ifs at mjd <;> omega
    have start := yearStart_succ first inRange
    have := le_marchLength (y + 1) 4
    exact ⟨y + 1, 4, 1, ⟨⟨by omega, by omega⟩, ⟨le_refl 1, by omega⟩, by omega⟩, by omega, nextDay_marchDate_year y⟩

/-- Up to 2100-02-28 the calendar's days are those the formula counts. -/
theorem gregorianDate_eq_marchDate (n : Nat) (h : n ≤ 88127) :
    ∃ y m d, MarchDay n y m d ∧ -42 ≤ y ∧ gregorianDate n = marchDate y m d := by
  induction n with
  | zero => exact ⟨-42, 12, 17, ⟨by decide, by decide, by decide⟩, by decide, by decide⟩
  | succ n ih =>
    obtain ⟨y, m, d, counted, first, date⟩ := ih (by omega)
    obtain ⟨y', m', d', counted', first', next⟩ := counted.next first (by omega)
    refine ⟨y', m', d', counted', first', ?_⟩
    rw [← next, ← date, gregorianDate, Function.iterate_succ_apply', gregorianDate]

/-- The days of a month end where the next begins, and a February has at most 29. -/
theorem monthStart_add_le {y m d : Int} (month : 4 ≤ m ∧ m ≤ 15) (day : d ≤ marchLength y m) :
    monthStart m + d ≤ monthStart (m + 1) ∧ monthStart m + d ≤ 459 + marchLength y 15 := by
  obtain ⟨m1, m2⟩ := month
  have length := le_marchLength y 15
  rcases m2.lt_or_eq with within | rfl
  · have next := monthStart_succ y m1 within
    have beforeFebruary : monthStart (m + 1) ≤ 459 := by unfold monthStart; omega
    omega
  · have february : monthStart 15 = 459 ∧ monthStart (15 + 1) = 489 := ⟨rfl, rfl⟩
    have atMost : marchLength y 15 ≤ 29 := by
      change (if leapYear _ then 29 else 28) ≤ (29 : Int)
      split_ifs <;> decide
    omega

/-- The formula finds the month in which a day of its year lies. -/
theorem month_of_day {m d : Int} (month : 4 ≤ m ∧ m ≤ 15) (first : 1 ≤ d)
    (last : monthStart m + d ≤ monthStart (m + 1)) : (10000 * (monthStart m + d) - 1000) / 306001 = m := by
  obtain ⟨m1, m2⟩ := month
  unfold monthStart at last ⊢
  interval_cases m <;> omega

/-- From 1900-03-01 the formula's date is the day it counts. -/
theorem rdsDate_of_marchDay {n y m d : Int} (h : MarchDay n y m d) (first : 15079 ≤ n) (last : n ≤ 88127) :
    rdsDate n = marchDate y m d := by
  obtain ⟨month, ⟨d1, d2⟩, mjd⟩ := h
  obtain ⟨inMonth, inYear⟩ := monthStart_add_le month d2
  have bounds : 122 ≤ monthStart m ∧ monthStart (m + 1) ≤ 489 := by unfold monthStart; omega
  have inRange : 0 ≤ y ∧ y ≤ 199 := by
    have february1900 : marchLength (-1) 15 = 28 := rfl
    unfold yearStart at mjd
    by_contra outside
    rcases eq_or_ne y (-1) with rfl | other
    · omega
    · split_ifs at mjd <;> omega
  have february := marchLength_february (y := y) (by omega) inRange.2
  have start : yearStart y = 365 * y + y / 4 := by rw [yearStart, if_neg (by omega), add_zero]
  have year : mjdYear n = y := by
    rw [mjdYear, Int.tdiv_eq_ediv_of_nonneg (by omega)]
    split_ifs at february <;> omega
  have yearDays : mjdYearDays n = yearStart y := by
    rw [mjdYearDays, year, Int.tdiv_eq_ediv_of_nonneg (by omega)]
    omega
  have monthNumber : mjdMonth n = m := by
    rw [mjdMonth, yearDays, Int.tdiv_eq_ediv_of_nonneg (by omega), ← month_of_day month d1 inMonth]
    congr 1
    omega
  have monthDays : mjdMonthDays n = monthStart m := by
    rw [mjdMonthDays, monthNumber, Int.tdiv_eq_ediv_of_nonneg (by omega), monthStart]
  have dayNumber : n - 14956 - yearStart y - monthStart m = d := by omega
  rw [rdsDate, marchDate, year, yearDays, monthNumber, monthDays, dayNumber]

/-- Settles O44: both are the day the formula counts, under either rule. -/
theorem mjdToDateIsGregorianInRange : Obligations.MjdToDateIsGregorianInRange := by
  intro r mjd first last
  obtain ⟨y, m, d, counted, -, date⟩ := gregorianDate_eq_marchDate mjd.toNat last
  have formula : rdsDate mjd.toNat = gregorianDate mjd.toNat :=
    (rdsDate_of_marchDay counted (by omega) (by omega)).trans date.symm
  have lawful : mjdLawful mjd = true := by
    simp [mjdLawful, first, last]
  cases r <;> simp only [mjdToDate, lawful, if_true, formula]

/-! ### The date string -/

/-- Four decimal digits hold a number below 10000. -/
theorem decimal4_eq_of_lt {n : Nat} (h : n < 10000) : decimal4 n =
    [Nat.digitChar (n / 1000), Nat.digitChar (n / 100 % 10), Nat.digitChar (n / 10 % 10), Nat.digitChar (n % 10)] := by
  have thousands : n / 1000 % 10 = n / 1000 := Nat.mod_eq_of_lt (by omega)
  simp only [decimal4, decimalDigit_eq_digitChar, thousands]

/-- Settles O60: the triple is in the ranges of R237, and two and four digits hold its numbers. -/
theorem dateStringIsYearMonthDay : Obligations.DateStringIsYearMonthDay := by
  intro y m d hy hm hm' hd hd'
  have inRange : hasDateString ⟨y, m, d⟩ = true := by
    simp only [hasDateString, Bool.and_eq_true, decide_eq_true_iff]
    omega
  rw [dateString, if_pos inRange]
  simp only [Int.toNat_natCast]
  rw [decimal4_eq_of_lt (by omega), decimal2_eq_of_lt (by omega), decimal2_eq_of_lt (by omega)]
  rfl

end Sys2Proof.Machine
end

section
/-!
The invariant (R36 to R46, R127): it holds after construction, every kind of write keeps it, and under it every record
has the form R127 gives it.
-/

namespace Sys2Proof.Machine

/-! ### The registers -/

/-- The registers of S0 meet the invariant, whatever the parameters. -/
theorem inv_reset (p : Params) : StationInfo.Inv p .reset where
  psPrintable k := by simp [StationInfo.reset]
  rtPrintable k := by simp [StationInfo.reset]
  psUnwritten k _ := by simp [StationInfo.reset]
  rtUnwritten k _ := by simp [StationInfo.reset]
  abAndVer := rfl
  noTextYet _ k := by simp [StationInfo.reset]
  clockAbsent _ := rfl
  clockPresent := nofun

/-- Settles O56. -/
theorem resetStateMeetsTheInvariant : Obligations.ResetStateMeetsTheInvariant :=
  ⟨inv_reset _, fun _ h => absurd h List.not_mem_nil⟩

/-- Printable buffers stay printable. -/
theorem KeptOrPrintable.printable {n : Nat} {old new : Vector Byte n} (h : KeptOrPrintable old new)
    (printable : ∀ k : Fin n, 0x20#8 ≤ old[k]) (k : Fin n) : 0x20#8 ≤ new[k] :=
  (h k).elim (fun kept => kept ▸ printable k) id

/-- No received slot covers a position: neither that of version A nor that of version B, where it has one. -/
theorem rtCovered_eq_false {seen : Vector Bool 16} {k : Fin 64} : rtCovered seen k = false ↔
    seen[rtOwnerA k] = false ∧ ∀ h : k.val < 32, seen[rtOwnerB k h] = false := by
  unfold rtCovered
  split
  case isTrue half => simp [half]
  case isFalse half => simp [half]

/-- A slot flag that is clear after a slot's flag was set is another slot's. -/
theorem slot_ne_of_clear {seen : Vector Bool 16} {slot : BitVec 4} {k : Fin 16}
    (h : (writeAt seen (slotIndex slot) true)[k] = false) : k.val ≠ slot.toNat := by
  rintro own
  rw [Fin.getElem_fin, getElem_setSlot, if_pos own] at h
  cases h

/-- A position no received slot covers after a group 2 lies outside the slot the group wrote. -/
theorem outside_slot_of_uncovered {seen : Vector Bool 16} {slot : BitVec 4} {k : Fin 64} (v : Version)
    (h : rtCovered (writeAt seen (slotIndex slot) true) k = false) : k.val / slotWidth v ≠ slot.toNat := by
  obtain ⟨clearA, clearB⟩ := rtCovered_eq_false.mp h
  cases v with
  | a => exact slot_ne_of_clear clearA
  | b =>
    by_cases half : k.val < 32
    · exact slot_ne_of_clear (clearB half)
    · have := slot.isLt
      simp only [slotWidth]
      omega

/-- What is uncovered after a slot's flag was set was uncovered before. -/
theorem uncovered_of_setSlot {seen : Vector Bool 16} {i : Fin 16} {k : Fin 64}
    (h : rtCovered (writeAt seen i true) k = false) : rtCovered seen k = false := by
  obtain ⟨clearA, clearB⟩ := rtCovered_eq_false.mp h
  exact rtCovered_eq_false.mpr ⟨getElem_of_writeAt_true clearA, fun half => getElem_of_writeAt_true (clearB half)⟩

section Registers
variable {p : Params} {i : StationInfo} (inv : i.Inv p)
include inv

/-- An uncovered position of the text the toggle check leaves holds the fill value, cleared or not (R193). -/
theorem StationInfo.Inv.toggledText_uncovered {ab : Bool} {slot : BitVec 4} {k : Fin 64}
    (h : rtCovered (writeAt (bif abDiffers i.rtAb ab then Vector.replicate 16 false else i.rtSeen)
      (slotIndex slot) true) k = false) : (toggledText i ab)[k] = 0x20#8 := by
  unfold toggledText
  cases differs : abDiffers i.rtAb ab with
  | true => simp
  | false =>
    rw [differs] at h
    exact inv.rtUnwritten k (uncovered_of_setSlot h)

/-- A name position whose segment is not received after a group 0 holds the fill value (R36). -/
theorem StationInfo.Inv.psUnwritten_group0 (seg : BitVec 2) (x y : Byte) (k : Fin 8)
    (h : (writeAt i.psSeen (segIndex seg) true)[psOwner k] = false) :
    (writeAt (writeAt i.psBuf (psIndex seg 0) x) (psIndex seg 1) y)[k] = 0x20#8 := by
  have other : k.val / 2 ≠ seg.toNat := by
    intro own
    rw [Fin.getElem_fin, getElem_setSegment, if_pos (show (psOwner k).val = seg.toNat from own)] at h
    cases h
  rw [Fin.getElem_fin, getElem_writeSegment, if_neg (by omega), if_neg (by omega)]
  exact inv.psUnwritten k (getElem_of_writeAt_true h)

/-- Every instruction keeps the invariant of the registers. -/
theorem StationInfo.Inv.preserved (j : Instr) : (infoAfter p i j).Inv p := by
  have psPrintable := (infoAfter_psBuf p i j).printable inv.psPrintable
  have rtPrintable := (infoAfter_rtBuf p i j).printable inv.rtPrintable
  have effect := registerEffect p i j
  generalize infoAfter p i j = after at psPrintable rtPrintable effect ⊢
  cases effect with
  | unchanged | latch =>
    exact ⟨psPrintable, rtPrintable, inv.psUnwritten, inv.rtUnwritten, inv.abAndVer, inv.noTextYet, inv.clockAbsent,
      inv.clockPresent⟩
  | reset => exact inv_reset p
  | group0 _ _ _ _ _ _ seg =>
    exact ⟨psPrintable, rtPrintable, inv.psUnwritten_group0 seg _ _, inv.rtUnwritten, inv.abAndVer, inv.noTextYet,
      inv.clockAbsent, inv.clockPresent⟩
  | group2 _ _ _ slot v buf others =>
    refine ⟨psPrintable, rtPrintable, ?_, fun k uncovered => ?_, rfl, nofun, ?_, ?_⟩
    · simpa using inv.psUnwritten
    · rw [group2Info_rtSeen] at uncovered
      exact (others k (outside_slot_of_uncovered v uncovered)).trans (inv.toggledText_uncovered uncovered)
    · simpa using inv.clockAbsent
    · simpa using inv.clockPresent
  | clock _ _ _ positive =>
    exact ⟨psPrintable, rtPrintable, inv.psUnwritten, inv.rtUnwritten, inv.abAndVer, inv.noTextYet, nofun,
      fun _ => ⟨positive, rfl⟩⟩

/-! ### The records -/

/-- A reported name has the form of R127. -/
theorem StationInfo.Inv.nameReport_ok : (nameReport p i).all nameOk = true := by
  cases report : nameReport p i with
  | none => rfl
  | some l =>
    obtain ⟨-, rfl⟩ := nameReport_eq_some.mp report
    have short := length_nameTrimOf_le p.nameTrim i.psBuf.toList
    rw [Vector.length_toList] at short
    simp only [Option.all_some, nameOk, printableCodes, Bool.and_eq_true, decide_eq_true_iff, List.all_eq_true]
    exact ⟨short, fun x hx => le_of_mem_toList inv.psPrintable (mem_of_mem_nameTrimOf hx)⟩

/-- A reported text has the form of R127. -/
theorem StationInfo.Inv.textReport_ok (v : Version) : (textReport p i v).all textOk = true := by
  cases report : textReport p i v with
  | none => rfl
  | some l =>
    obtain ⟨-, nonempty, rfl⟩ := textReport_eq_some.mp report
    simp only [Option.all_some, textOk, printableCodes, Bool.and_eq_true, decide_eq_true_iff, List.all_eq_true]
    exact ⟨⟨List.length_pos_iff.mpr nonempty, length_rtAssembled_le i v⟩,
      fun x hx => le_of_mem_toList inv.rtPrintable (mem_of_mem_rtAssembled hx)⟩

/-- The snapshot's text has the form of R127. -/
theorem StationInfo.Inv.snapshot_rt_ok : (snapshotOf p i).rt.all textOk = true := by
  cases version : i.rtVer with
  | none => rw [snapshotOf_rt_of_none p version]; rfl
  | some v => rw [snapshotOf_rt_of_some p version]; exact inv.textReport_ok v

/-- The snapshot's clock has a nonzero MJD. -/
theorem StationInfo.Inv.snapshot_clock_ok : (snapshotOf p i).clock.all clockOk = true := by
  cases valid : i.clkValid with
  | false => rw [snapshotOf_clock_of_absent p valid]; rfl
  | true => rw [snapshotOf_clock_of_valid p valid]; exact decide_eq_true (inv.clockPresent valid).1

end Registers

/-- The entries of one code have the form of R153, and there is at most one. -/
theorem afDecode_ok (x : Byte) : (afDecode x).length ≤ 1 ∧ ∀ e ∈ afDecode x, afEntryOk e = true := by
  unfold afDecode
  split
  case isTrue valid => simp [afEntryOk, valid]
  case isFalse => simp

/-- The list a group 0A reports has the form of R127. -/
theorem afOk_append (x y : Byte) : afOk (afDecode x ++ afDecode y) = true := by
  obtain ⟨shortX, okX⟩ := afDecode_ok x
  obtain ⟨shortY, okY⟩ := afDecode_ok y
  simp only [afOk, List.length_append, List.all_append, Bool.and_eq_true, decide_eq_true_iff, List.all_eq_true]
  exact ⟨by omega, okX, okY⟩

/-- Every record an instruction puts out has the form of R127. -/
theorem StationInfo.Inv.outputsOf_wellFormed {p : Params} {i : StationInfo} (inv : i.Inv p) (j : Instr) :
    ∀ o ∈ outputsOf p i j, o.wellFormed = true := by
  have name := (inv.preserved j).nameReport_ok
  have text := (inv.preserved j).textReport_ok
  cases j with
  | decode | reset | cmdnop => simp [outputsOf]
  | grp1a | grp1b | grp4b | grpnop => simp [outputsOf, Output.wellFormed, DecodedFields.empty]
  | grp0a =>
    simp only [infoAfter] at name
    simp [outputsOf, Output.wellFormed, DecodedFields.empty, group0Result, name, afOk_append]
  | grp0b =>
    simp only [infoAfter] at name
    simp [outputsOf, Output.wellFormed, DecodedFields.empty, group0Result, name]
  | grp2a | grp2b =>
    simp only [infoAfter] at text
    simp [outputsOf, Output.wellFormed, DecodedFields.empty, text]
  | grp4a pi mjd =>
    simp only [outputsOf]
    split
    case isTrue positive => simp [Output.wellFormed, DecodedFields.empty, clockOk, clockOf, positive]
    case isFalse => simp [Output.wellFormed, DecodedFields.empty]
  | query =>
    simp only [outputsOf, List.forall_mem_singleton, Output.wellFormed, Bool.and_eq_true]
    exact ⟨⟨inv.nameReport_ok, inv.snapshot_rt_ok⟩, inv.snapshot_clock_ok⟩

/-- Settles O55: the registers by `Inv.preserved`, the records by `Inv.outputsOf_wellFormed`. -/
theorem stepKeepsTheInvariant : Obligations.StepKeepsTheInvariant := by
  intro s t inv h
  obtain ⟨-, rfl⟩ | ⟨w, rest, -, rfl⟩ := step_cases h
  · exact inv
  · refine ⟨inv.info.preserved _, fun o ho => ?_⟩
    rw [stateAfterStep_outputs] at ho
    exact (List.mem_append.mp ho).elim (inv.outputs o) (inv.info.outputsOf_wellFormed _ o)

end Sys2Proof.Machine
end
